-- ==== Sys2Proof/Word.lean ====
section
/-! DEFINITION. The plain word types of the KR block (00_scope.md rules R13, R21, R22): every multi-bit
register of the block is an unsigned bit vector with bit 0 least significant. -/
namespace Sys2Proof

/-- An 8-bit value: an event byte, a packet byte, a queue slot (R13 `EVW = 8`). -/
abbrev Byte := BitVec 8

/-- A queue pointer, binary or gray, `PTRW = 8` bits (R13). -/
abbrev Ptr := BitVec 8

/-- A code word of any format of R110, zero-extended to the longest format in whole bytes (HS33, 33 bits). -/
abbrev Code := BitVec 40

end Sys2Proof
end

