-- ==== Sys2Proof/Config.lean ====
section
/-! DEFINITION. What is fixed for the hardware (00_scope.md rules R11 to R21, R74), what its parameters leave open
(`CH`, `KEYMAP`), and the free values: the inputs the external agents choose (R27, R150) and the contents of queue
storage no push has written (R55, 93 I1). A free value is an opaque constant: nothing in Lean can prove a value of
it, so a claim holds for every choice. -/
namespace Sys2Proof

/-- One clock edge of a run, with the levels the external agents drive at it (R92, R140, R141, R150), or the
Host's reset (R270). -/
inductive Edge where
  /-- A rising edge of `scan_clk`: `hs_valid`, `hs_data`, and the synchronised column levels, 0 = pulled low. -/
  | scan (hsValid : Bool) (hsData : BitVec 32) (colN : BitVec 8)
  /-- A rising edge of `usb_clk`: `svc_done`, `tx_done`, `tx_ok`. -/
  | usb (svcDone txDone txOk : Bool)
  /-- `rst_n = 0`: both domains are held in reset, no agent steps (R154, R270). -/
  | reset
deriving DecidableEq, Repr, Inhabited

/-- `NROWS = 7` (R11). -/
def Config.nrows : Nat := 7
/-- `NCOLS = 8` (R11). -/
def Config.ncols : Nat := 8
/-- `RAW_SKIP = 4` (R12). -/
def Config.rawSkip : Nat := 4
/-- `NKEYS = 49` (R12). -/
def Config.nkeys : Nat := 49
/-- `DEPTH = 128` slots (R13). notes/assumptions/17.md. -/
def Config.depth : Nat := 128
/-- `COL_SYNC_STAGES = 2` (R15); the column stages themselves are no registers (R72). notes/assumptions/15.md. -/
def Config.colSyncStages : Nat := 2
/-- The divisor of the settle formula, one million hertz for `T_SETTLE` of 1 µs (R14). -/
def Config.hzPerSettle : Nat := 1000000
/-- `CABLE = 0` (R16). -/
def Config.cable : BitVec 4 := 0x0#4
/-- `VEL = 0x7F` (R18). The MIDI constants from here on: notes/assumptions/16.md. -/
def Config.vel : BitVec 7 := 0x7F#7
/-- `CIN_ON = 0x9` (R20). -/
def Config.cinOn : BitVec 4 := 0x9#4
/-- `CIN_OFF = 0x8` (R20). -/
def Config.cinOff : BitVec 4 := 0x8#4
/-- `ST_ON = 0x9` (R20). -/
def Config.stOn : BitVec 4 := 0x9#4
/-- `ST_OFF = 0x8` (R20). -/
def Config.stOff : BitVec 4 := 0x8#4

/-- `CH`, the OPEN 4-bit channel value (R17, 92 D16): any value. notes/assumptions/10.md. -/
opaque Config.ch : BitVec 4

/-- The OPEN table `KEYMAP` (R19, 92 D18), held as a permutation of the 7-bit notes: every injective map from the
49 keys to 0..127 is the restriction of such a permutation, so this is every table with the two properties of R19
(injective, 7-bit values) and no other. notes/assumptions/2.md. -/
opaque Config.noteTable : Equiv.Perm (BitVec 7)

/-- The free input of the step at time `t`: which clock has its edge, and what the external agents drive (R27, R92,
R150). notes/assumptions/1.md. -/
opaque Config.freeEdge : Nat → Edge

/-- The byte that slot `i` physically holds when no PUSH has written it since reset number `r` (R55, 93 I1: "any
value"). notes/assumptions/3.md. -/
opaque Config.unwrittenByte : Nat → Nat → Byte

end Sys2Proof
end

