-- ==== Sys2Proof/Syntax.lean ====
section
/-! DEFINITION. The operations and encodings of the KR block: one constructor of `Instr` per row of
spec/opcode_table.json (30_encoding.md rule R126). The block has no instruction words (R2): what selects an
operation is a phase register, a queue port, an input transaction, or the bits of a data encoding. -/
namespace Sys2Proof

/-- The fixed-width formats of R110 that have rows in the opcode table. (POS6 has no row; it is
`Machine.posRaw`.) -/
inductive Format where
  /-- SPHASE, 3 bits: the Scanner phase code (R118). -/
  | sphase
  /-- TPHASE, 2 bits: the Transmitter phase code (R119). -/
  | tphase
  /-- WPORT, 9 bits: the queue's write port (R120). -/
  | wport
  /-- RPORT, 1 bit: the queue's read port (R120). -/
  | rport
  /-- EVT8, 8 bits: the event byte (R111). -/
  | evt8
  /-- USBMIDI4, 32 bits `(P0, P1, P2, P3)` with P0 in bits 31:24 (R113, R131). -/
  | usbmidi4
  /-- HS33, 33 bits: the Handoff input transaction (R121). -/
  | hs33
  /-- SVC1, 1 bit: the service input transaction (R121). -/
  | svc1
  /-- TXD2, 2 bits: the send-answer input transaction (R121). -/
  | txd2
  /-- DIAG11, 11 bits: the diagnostic record (R122). -/
  | diag11
deriving DecidableEq, Repr, Inhabited

/-- The operations of the opcode map (R126), in the table's order. -/
inductive Instr where
  /-- WAIT_HS (R163): accept the Startup Handoff. -/
  | waitHs
  /-- STROBE (R164): drive the current row active. -/
  | strobe
  /-- SETTLE (R165): count the settle interval down. -/
  | settle
  /-- SAMPLE (R166): sample one column, detect an edge, push its event. -/
  | sample
  /-- RELEASE (R167): restore the row's strobe, move to the next row. -/
  | release
  /-- HALTED (R168): the Scanner has stopped for good. -/
  | halted
  /-- SERVICE (R201): service the USB transport. -/
  | service
  /-- PEEK (R202): peek the queue, decode the head, build the packet. -/
  | peek
  /-- ATTEMPT (R203): present the packet, take the answer, pop on success. -/
  | attempt
  /-- HALTED_TX (R204): the Transmitter has stopped for good. -/
  | haltedTx
  /-- PUSH (R181): WPORT `1dddddddd`. -/
  | push (d : Byte)
  /-- POP (R185): RPORT `1`. -/
  | pop
  /-- PEEK_Q (R183): RPORT `0`, the queue's peek(). -/
  | peekQ
  /-- EVT_PRESS (R220): EVT8 `1kkkkkkk`. -/
  | evtPress (k : BitVec 7)
  /-- EVT_RELEASE (R220): EVT8 `0kkkkkkk`. -/
  | evtRelease (k : BitVec 7)
  /-- NOTE_ON (R114, R224): USBMIDI4 `00001001 1001cccc 0nnnnnnn 01111111`. -/
  | noteOn (c : BitVec 4) (n : BitVec 7)
  /-- NOTE_OFF (R115, R224): USBMIDI4 `00001000 1000cccc 0nnnnnnn 01111111`. -/
  | noteOff (c : BitVec 4) (n : BitVec 7)
  /-- HANDOFF (R121, R163): HS33 `1f..f`. -/
  | handoff (f : BitVec 32)
  /-- SVC_DONE (R121, R201): SVC1 `1`. -/
  | svcDone
  /-- TX_DONE_OK (R121, R203): TXD2 `11`. -/
  | txDoneOk
  /-- TX_DONE_FAIL (R121, R203): TXD2 `10`. -/
  | txDoneFail
  /-- DIAG_SENT (R122, R203): DIAG11 `100bbbbbbbb`. -/
  | diagSent (b : Byte)
  /-- DIAG_SEND_FAIL (R122, R203): DIAG11 `101bbbbbbbb`. -/
  | diagSendFail (b : Byte)
  /-- DIAG_FATAL_DECODE (R122, R202): DIAG11 `110bbbbbbbb`. -/
  | diagFatalDecode (b : Byte)
deriving DecidableEq, Repr

/-- The format each operation is a code of (R126). -/
def Instr.format : Instr → Format
  | .waitHs | .strobe | .settle | .sample | .release | .halted => .sphase
  | .service | .peek | .attempt | .haltedTx => .tphase
  | .push _ => .wport
  | .pop | .peekQ => .rport
  | .evtPress _ | .evtRelease _ => .evt8
  | .noteOn _ _ | .noteOff _ _ => .usbmidi4
  | .handoff _ => .hs33
  | .svcDone => .svc1
  | .txDoneOk | .txDoneFail => .txd2
  | .diagSent _ | .diagSendFail _ | .diagFatalDecode _ => .diag11

end Sys2Proof
end

