-- ==== Sys2Proof/Machine/State.lean ====
section
/-! DEFINITION. The KR block's state (10_state.md), as plain data: the scan-domain registers (R43 to R54), the queue
storage (R55), the USB-domain registers (R56 to R64), and the model's own fields that the spec's draws and port trace
need (R27, R155). Every flag and status word of R65 to R73 is a function of these (Machine/Flags.lean). -/
namespace Sys2Proof.Machine

/-- `sphase` (R43, R118): the six named values; codes 6 and 7 are left out (R262, 93 I17).
notes/assumptions/9.md. -/
inductive ScanPhase where
  /-- Code 0. -/
  | waitHs
  /-- Code 1. -/
  | strobe
  /-- Code 2. -/
  | settle
  /-- Code 3. -/
  | sample
  /-- Code 4. -/
  | release
  /-- Code 5. -/
  | halted
deriving DecidableEq, Repr

/-- `tphase` (R56, R119). -/
inductive TxPhase where
  /-- Code 0. -/
  | service
  /-- Code 1. -/
  | peek
  /-- Code 2. -/
  | attempt
  /-- Code 3. -/
  | halted
deriving DecidableEq, Repr

/-- `sfatal` (R49, R123): code 3 is reserved, never written, and left out (93 I18). -/
inductive ScanFatal where
  /-- Code 0. -/
  | none
  /-- Code 1. -/
  | overflow
  /-- Code 2. -/
  | init
deriving DecidableEq, Repr

/-- `diag_code` (R64, R122): code 3 is reserved, never written, and left out (93 I19). -/
inductive DiagCode where
  /-- Code 0. -/
  | sent
  /-- Code 1. -/
  | sendFail
  /-- Code 2. -/
  | fatalDecode
deriving DecidableEq, Repr

/-- The four bytes of a USB MIDI event packet, P0 first on the wire (R87, R113). -/
structure Packet where
  p0 : Byte
  p1 : Byte
  p2 : Byte
  p3 : Byte
deriving DecidableEq, Repr

/-- The scan domain's registers: the Scanner (R43 to R51) and the queue's write side (R52 to R54). -/
structure ScanRegs where
  /-- R43. -/
  sphase : ScanPhase
  /-- R44; legal values 0..6 (7 is never written: notes/assumptions/19.md). -/
  row : BitVec 3
  /-- R45. -/
  col : BitVec 3
  /-- R46. -/
  cnt : BitVec 16
  /-- R47. -/
  settle : BitVec 16
  /-- R48; bit k is KeyIndex k, 1 = pressed. -/
  snap : BitVec 49
  /-- R49. -/
  sfatal : ScanFatal
  /-- R50. -/
  lost : Byte
  /-- R51 `row_n`; bit r drives row line r, 0 = active. -/
  rowN : BitVec 7
  /-- R52. -/
  wbin : Ptr
  /-- R53. -/
  wgray : Ptr
  /-- R54 `wq1_rgray`. -/
  wq1Rgray : Ptr
  /-- R54 `wq2_rgray`. -/
  wq2Rgray : Ptr
deriving DecidableEq, Repr

/-- The USB domain's registers: the Transmitter (R56, R60 to R64) and the queue's read side (R57 to R59). -/
structure UsbRegs where
  /-- R56. -/
  tphase : TxPhase
  /-- R57. -/
  rbin : Ptr
  /-- R58. -/
  rgray : Ptr
  /-- R59 `rq1_wgray`. -/
  rq1Wgray : Ptr
  /-- R59 `rq2_wgray`. -/
  rq2Wgray : Ptr
  /-- R60. -/
  hold : Byte
  /-- R61. -/
  pkt0 : Byte
  /-- R61. -/
  pkt1 : Byte
  /-- R61. -/
  pkt2 : Byte
  /-- R61. -/
  pkt3 : Byte
  /-- R62; true is 1 = DECODE. -/
  tfatal : Bool
  /-- R63. -/
  bad : Byte
  /-- R64. -/
  diagValid : Bool
  /-- R64. -/
  diagCode : DiagCode
  /-- R64. -/
  diagByte : Byte
deriving DecidableEq, Repr

/-- The model's own: the levels on the input ports at the step being taken (R27, R140, R141). They are draws, not
registers of the block (R74); they stand in State because `exec` reads nothing else. notes/assumptions/1.md. A level stands
until an event drives that input again, which matters at port events alone: notes/assumptions/21.md. -/
structure Pins where
  hsValid : Bool
  hsData : BitVec 32
  colN : BitVec 8
  svcDone : Bool
  txDone : Bool
  txOk : Bool
deriving DecidableEq, Repr

/-- The model's own: what the block's internal paths carried in the last step (the port trace of R155), cleared at
the start of each step. No rule of the block reads it. notes/assumptions/5.md. -/
structure Obs where
  /-- The event byte an ENCODE_EVT formed in this step (R220). -/
  evt : Option Byte
  /-- The byte a PUSH wrote in this step: WPORT `1 bbbbbbbb` (R120, R181). -/
  push : Option Byte
  /-- A POP happened in this step: RPORT `1` (R120, R185). -/
  pop : Bool
  /-- The result of a queue PEEK in this step: `none` if no PEEK happened, else what it returned (R183). -/
  head : Option (Option Byte)
  /-- The packet an ENCODE_PKT formed in this step (R224). -/
  pkt : Option Packet
  /-- The packet delivered in this step: a TX_DONE_OK answer completed its attempt (R156). -/
  delivered : Option Packet
deriving DecidableEq, Repr

/-- Nothing observed. -/
def Obs.quiet : Obs :=
  { evt := none, push := none, pop := false, head := none, pkt := none, delivered := none }

/-- What the next step is: a clock edge of the composed block, or one code word on a port of a sub-block used on its
own (R253). -/
inductive Event where
  /-- A clock edge with its input levels, or reset. -/
  | edge (e : Edge)
  /-- The code word `w` of format `f`, driven onto its port. -/
  | port (f : Format) (w : Code)
deriving DecidableEq, Repr

/-- The queue storage `mem` (R55, R80): the slots a PUSH has written since reset, slot numbers strictly rising. An
unlisted slot has no value of its own (R55: "A model gives no slot a value at reset"). -/
abbrev Memory := List Host.Cell

/-- The state of the KR block. -/
structure State where
  /-- The scan domain (R40). -/
  scan : ScanRegs
  /-- The queue storage (R55), shared (R40). -/
  mem : Memory
  /-- The USB domain (R40). -/
  usb : UsbRegs
  /-- The model's own: input levels at this step (notes/assumptions/1.md, 21.md). -/
  pins : Pins
  /-- The model's own: the port trace of the last step. -/
  obs : Obs
  /-- The model's own: the scenario, the events still to come, oldest first (R129). When it is empty the external
  agents and the clocks are free (`Config.freeEdge`). -/
  events : List Event
  /-- The model's own: how many free edges were drawn. -/
  tick : Nat
  /-- The model's own: how many times reset was asserted since the start. -/
  resets : Nat
deriving DecidableEq, Repr

/-- Why the machine stops with a fault: never. The block's fatal conditions halt one agent in a next state (R244),
and a halted agent still takes steps (R155); no access can miss the storage, since a slot index has 7 bits (R86).
So there is no constructor, and that is exact, neither safe nor unsafe. notes/assumptions/14.md. -/
inductive Fault where
deriving DecidableEq, Repr

/-- Why a step is refused. notes/assumptions/18.md. -/
inductive Refusal where
  /-- An instruction without a meaning yet; raised by `exec` alone, and by no arm of this model. Safe. -/
  | notModelled (mnemonic : String)
  /-- Raised by `step` when a port is driven with a reserved code word of its format, for the decoder's reason: SPHASE
  6 and 7, EVT8 with K over 48, DIAG11 code 3, a USBMIDI4 word that is never produced, or a word too wide (R127).
  Only a port event can bring one; no clock edge of the block does. Safe. -/
  | reservedEncoding (f : Format)
  /-- Raised by EVT_PRESS and EVT_RELEASE on a KeyIndex over 48, which ENCODE_EVT is never given (R112, R220) and no
  decoded word holds. Safe. -/
  | reservedKeyIndex
deriving DecidableEq, Repr

/-- The scan domain at reset (R271). -/
def ScanRegs.reset : ScanRegs :=
  { sphase := .waitHs, row := 0#3, col := 0#3, cnt := 0#16, settle := 0#16, snap := 0#49, sfatal := .none,
    lost := 0#8, rowN := 0b1111111#7, wbin := 0#8, wgray := 0#8, wq1Rgray := 0#8, wq2Rgray := 0#8 }

/-- The USB domain at reset (R271). -/
def UsbRegs.reset : UsbRegs :=
  { tphase := .service, rbin := 0#8, rgray := 0#8, rq1Wgray := 0#8, rq2Wgray := 0#8, hold := 0#8,
    pkt0 := 0#8, pkt1 := 0#8, pkt2 := 0#8, pkt3 := 0#8, tfatal := false, bad := 0#8, diagValid := false,
    diagCode := .sent, diagByte := 0#8 }

/-- Every input idle: nothing offered or answered, the columns pulled up. The model's own (notes/assumptions/1.md). -/
def Pins.idle : Pins :=
  { hsValid := false, hsData := 0#32, colN := 0xFF#8, svcDone := false, txDone := false, txOk := false }

/-- The machine right after reset (R271, R272): both domains at their reset values, no slot written, no event
scheduled. -/
def State.reset : State :=
  { scan := ScanRegs.reset, mem := [], usb := UsbRegs.reset, pins := Pins.idle, obs := Obs.quiet, events := [],
    tick := 0, resets := 0 }

/-- Replace the scan domain's registers. -/
def State.withScan (s : State) (r : ScanRegs) : State := { s with scan := r }
/-- Replace the queue storage. -/
def State.withMem (s : State) (m : Memory) : State := { s with mem := m }
/-- Replace the USB domain's registers. -/
def State.withUsb (s : State) (r : UsbRegs) : State := { s with usb := r }
/-- Replace the input levels. -/
def State.withPins (s : State) (p : Pins) : State := { s with pins := p }
/-- Replace the port trace. -/
def State.withObs (s : State) (o : Obs) : State := { s with obs := o }

end Sys2Proof.Machine
end

