-- ==== Sys2Proof/Machine/Operands.lean ====
section
/-! DEFINITION. Operand assembly (30_encoding.md rules R117, R124, R125) and the pure functions of
41_scanner.md rule R161, 44_keymap_encoding.md rules R220 to R224 and 00_scope.md rule R29. None reads a register
(R226). -/
namespace Sys2Proof.Machine

/-- The SPHASE code of a phase (R43, R118). -/
def sphaseCode : ScanPhase → BitVec 3
  | .waitHs => 0#3
  | .strobe => 1#3
  | .settle => 2#3
  | .sample => 3#3
  | .release => 4#3
  | .halted => 5#3

/-- The phase of a SPHASE code; 6 and 7 are none (R262). -/
def sphaseOfCode (c : Code) : Option ScanPhase :=
  match c.toNat with
  | 0 => some .waitHs
  | 1 => some .strobe
  | 2 => some .settle
  | 3 => some .sample
  | 4 => some .release
  | 5 => some .halted
  | _ => none

/-- The TPHASE code of a phase (R56, R119). -/
def tphaseCode : TxPhase → BitVec 2
  | .service => 0#2
  | .peek => 1#2
  | .attempt => 2#2
  | .halted => 3#2

/-- The phase of a TPHASE code. -/
def tphaseOfCode (c : Code) : Option TxPhase :=
  match c.toNat with
  | 0 => some .service
  | 1 => some .peek
  | 2 => some .attempt
  | 3 => some .halted
  | _ => none

/-- The 2-bit code of `sfatal` (R49, R123). -/
def sfatalCode : ScanFatal → BitVec 2
  | .none => 0#2
  | .overflow => 1#2
  | .init => 2#2

/-- The 2-bit code of `diag_code` (R64, R122). -/
def diagCodeBits : DiagCode → BitVec 2
  | .sent => 0#2
  | .sendFail => 1#2
  | .fatalDecode => 2#2

/-- `bin2gray(b) = b ^ (b >> 1)` (R29). -/
def bin2gray (b : Ptr) : Ptr := b ^^^ (b >>> 1)

/-- `gray2bin(g)` (R29): `b[7] = g[7]`, `b[i] = b[i+1] ^ g[i]`, so bit i is the exclusive or of bits 7 to i of g. -/
def gray2bin (g : Ptr) : Ptr :=
  g ^^^ (g >>> 1) ^^^ (g >>> 2) ^^^ (g >>> 3) ^^^ (g >>> 4) ^^^ (g >>> 5) ^^^ (g >>> 6) ^^^ (g >>> 7)

/-- The slot a pointer addresses, `p[6:0]` (R52, R57, R86). -/
def slotOf (p : Ptr) : Nat := (p.extractLsb' 0 7).toNat

/-- POS6 (R117): the raw index `(row, col)`, equal to `row*8 + col`. -/
def posRaw (row col : BitVec 3) : BitVec 6 := row ++ col

/-- The three classes of a matrix position (R117). -/
inductive KeyClass where
  /-- raw 0..3: no physical key. -/
  | noKeyLow
  /-- raw 53..55 (and the row 7 that never occurs): ignored (90 C2). -/
  | noKeyHigh
  /-- raw 4..52: the key `raw - 4`. -/
  | key (k : BitVec 7)
deriving DecidableEq, Repr

/-- `Classify(row, col)` (R161); the KeyIndex is `raw - 4` (R125 a). -/
def classify (row col : BitVec 3) : KeyClass :=
  let raw := (posRaw row col).toNat
  if raw < Config.rawSkip then .noKeyLow
  else if raw > Config.rawSkip + Config.nkeys - 1 then .noKeyHigh
  else .key (BitVec.ofNat 7 (raw - Config.rawSkip))

/-- Whether key `k` was last seen pressed: `snap[k]` (R48). -/
def snapBit (snap : BitVec 49) (k : BitVec 7) : Bool := snap.getLsbD k.toNat

/-- `snap` with `snap[k] <- v` (R48, R166). -/
def setSnapBit (snap : BitVec 49) (k : BitVec 7) (v : Bool) : BitVec 49 :=
  if v then snap ||| (1#49 <<< k.toNat) else snap &&& ~~~(1#49 <<< k.toNat)

/-- `row_n` with exactly the line of `row` driven: `~(1 << row)[6:0]` (R164). -/
def strobeLine (row : BitVec 3) : BitVec 7 := ~~~(1#7 <<< row.toNat)

/-- Every row line idle, `0b111_1111` (R51). -/
def rowsIdle : BitVec 7 := 0b1111111#7

/-- `SETTLE_LOAD = ceil_div(F, 1_000_000) + COL_SYNC_STAGES` (R14, R24, R125 h); at most 4297, so exact in 16 bits
(R21). -/
def settleLoad (f : BitVec 32) : BitVec 16 :=
  BitVec.ofNat 16 ((f.toNat + Config.hzPerSettle - 1) / Config.hzPerSettle + Config.colSyncStages)

/-- `ENCODE_EVT(k, pressed)` (R220, R125 b): `(pressed, k[6:0])`. -/
def encodeEvt (k : BitVec 7) (pressed : Bool) : Byte := BitVec.ofBool pressed ++ k

/-- `DECODE_EVT(b)` (R221, R125 c): the KeyIndex and the edge, or an explicit failure when K is 49 or more. -/
def decodeEvt (b : Byte) : Option (BitVec 7 × Bool) :=
  let k : BitVec 7 := b.extractLsb' 0 7
  if k.toNat ≥ Config.nkeys then none else some (k, b.getLsbD 7)

/-- `KEYMAP_LOOKUP(k)` (R223, R125 d): the note of key `k`. -/
def keymapLookup (k : BitVec 7) : BitVec 7 := Config.noteTable k

/-- `ENCODE_PKT(k, e)` (R224, R113, R125 e to g). -/
def encodePkt (k : BitVec 7) (e : Bool) : Packet :=
  let n := keymapLookup k
  if e then
    { p0 := Config.cable ++ Config.cinOn, p1 := Config.stOn ++ Config.ch, p2 := 0#1 ++ n, p3 := 0#1 ++ Config.vel }
  else
    { p0 := Config.cable ++ Config.cinOff, p1 := Config.stOff ++ Config.ch, p2 := 0#1 ++ n, p3 := 0#1 ++ Config.vel }

/-- The packet a NOTE_ON code word holds on channel `c` with note `n` (R114). -/
def noteOnPacket (c : BitVec 4) (n : BitVec 7) : Packet :=
  { p0 := Config.cable ++ Config.cinOn, p1 := Config.stOn ++ c, p2 := 0#1 ++ n, p3 := 0#1 ++ Config.vel }

/-- The packet a NOTE_OFF code word holds on channel `c` with note `n` (R115). -/
def noteOffPacket (c : BitVec 4) (n : BitVec 7) : Packet :=
  { p0 := Config.cable ++ Config.cinOff, p1 := Config.stOff ++ c, p2 := 0#1 ++ n, p3 := 0#1 ++ Config.vel }

/-- The 32-bit value `(P0, P1, P2, P3)` of a packet, P0 in bits 31:24 (R131). -/
def packetValue (p : Packet) : BitVec 32 := p.p0 ++ p.p1 ++ p.p2 ++ p.p3

end Sys2Proof.Machine
end

