-- ==== Sys2Proof/Machine/Flags.lean ====
section
/-! DEFINITION. Every flag, level, status word and combinational output of 10_state.md (R65 to R69, R73) and
30_encoding.md (R120, R122): functions of the registers, written by no operation. -/
namespace Sys2Proof.Machine

/-- `WLEVEL` (R67): the write side's view of the unconsumed bytes. -/
def wlevel (s : State) : BitVec 8 := s.scan.wbin - gray2bin s.scan.wq2Rgray

/-- `RLEVEL` (R67): the read side's view of the unconsumed bytes. -/
def rlevel (s : State) : BitVec 8 := gray2bin s.usb.rq2Wgray - s.usb.rbin

/-- `TLEVEL` (R189): the true number of unconsumed bytes. -/
def tlevel (s : State) : BitVec 8 := s.scan.wbin - s.usb.rbin

/-- `WFULL` (R65). -/
def wfull (s : State) : Bool := wlevel s == BitVec.ofNat 8 Config.depth

/-- `REMPTY` (R66). -/
def rempty (s : State) : Bool := s.usb.rgray == s.usb.rq2Wgray

/-- `SCAN_STATUS` (R68): `(LOST, WLEVEL, ROW, WFULL, FATAL, HALTED, HS_DONE)`. -/
def scanStatus (s : State) : BitVec 24 :=
  s.scan.lost ++ wlevel s ++ s.scan.row ++ BitVec.ofBool (wfull s) ++ sfatalCode s.scan.sfatal
    ++ BitVec.ofBool (s.scan.sphase == .halted) ++ BitVec.ofBool (s.scan.sphase != .waitHs)

/-- `TX_STATUS` (R69): `(BAD, RLEVEL, reserved 0, IN_FLIGHT, REMPTY, FATAL_DECODE, HALTED)`. -/
def txStatus (s : State) : BitVec 24 :=
  s.usb.bad ++ rlevel s ++ 0#4 ++ BitVec.ofBool (s.usb.tphase == .attempt) ++ BitVec.ofBool (rempty s)
    ++ BitVec.ofBool s.usb.tfatal ++ BitVec.ofBool (s.usb.tphase == .halted)

/-- `svc_req` (R73). -/
def svcReq (s : State) : Bool := s.usb.tphase == .service

/-- `tx_req` (R73). -/
def txReq (s : State) : Bool := s.usb.tphase == .attempt

/-- The packet on the lanes `tx_p0..tx_p3` (R61, R73). -/
def txLanes (s : State) : Packet :=
  { p0 := s.usb.pkt0, p1 := s.usb.pkt1, p2 := s.usb.pkt2, p3 := s.usb.pkt3 }

/-- DIAG11 on the diagnostic port: `(diag_valid, diag_code, diag_byte)` (R122, R147). -/
def diagWord (s : State) : BitVec 11 :=
  BitVec.ofBool s.usb.diagValid ++ diagCodeBits s.usb.diagCode ++ s.usb.diagByte

/-- WPORT as the last step drove it: `(we, wdata)` (R120); `wdata` is shown as 0 when `we = 0`, where R120 gives it
no meaning. -/
def wportWord (s : State) : BitVec 9 :=
  match s.obs.push with
  | some b => 1#1 ++ b
  | none => 0#9

end Sys2Proof.Machine
end

