-- ==== Sys2Proof/Machine/Ops.lean ====
section
/-! DEFINITION. The operations every meaning is made of: the storage primitives (R26), the queue operations
(42_channel.md), halt entry (60_exceptions.md rule R244), reset (70_reset_and_hazards.md rule R270), the
synchronisers (R187, R188), and the phase actions (R163 to R168, R201 to R204). Each reads the state before the
edge and gives the state after it; all writes of a step take effect together (R25). -/
namespace Sys2Proof.Machine

/-- `MemRead` on the written slots (R26): `none` for a slot no PUSH has written since reset. -/
def Memory.read : Memory → Nat → Option Byte
  | [], _ => none
  | (a', b') :: m, a => if a = a' then some b' else Memory.read m a

/-- `MemWrite` (R26), keeping slot numbers strictly rising. -/
def Memory.write : Memory → Nat → Byte → Memory
  | [], a, b => [(a, b)]
  | (a', b') :: m, a, b =>
    if a < a' then (a, b) :: (a', b') :: m
    else if a = a' then (a, b) :: m
    else (a', b') :: Memory.write m a b

/-- The canonical form of the storage: slot numbers strictly rising, each one of the 128 slots (R80). -/
abbrev Memory.wf (m : Memory) : Prop :=
  m.Pairwise (fun x y => x.1 < y.1) ∧ ∀ c ∈ m, c.1 < Config.depth

/-- The byte in slot `i` (R26): what the last PUSH wrote there, or, where none has since reset, a free value
(R55, 93 I1; notes/assumptions/3.md). -/
def readSlot (s : State) (i : Nat) : Byte :=
  (s.mem.read i).getD (Config.unwrittenByte s.resets i)

/-- `PUSH(b)` (R181): write the tail slot, advance the pointer in binary and gray. Its callers check `WFULL` first. -/
def push (b : Byte) (s : State) : State :=
  ((s.withMem (s.mem.write (slotOf s.scan.wbin) b)).withScan
    { s.scan with wbin := s.scan.wbin + 1#8, wgray := bin2gray (s.scan.wbin + 1#8) }).withObs
    { s.obs with push := some b }

/-- `push(byte) -> success|full` (R182): on `full` nothing in the queue changes. -/
def tryPush (b : Byte) (s : State) : State := if wfull s then s else push b s

/-- The queue's `PEEK()` (R183): the head, or none. -/
def peekHead (s : State) : Option Byte :=
  if rempty s then none else some (readSlot s (slotOf s.usb.rbin))

/-- `POP` (R185): advance the read pointer in binary and gray; the slot keeps its byte. -/
def pop (s : State) : State :=
  (s.withUsb { s.usb with rbin := s.usb.rbin + 1#8, rgray := bin2gray (s.usb.rbin + 1#8) }).withObs
    { s.obs with pop := true }

/-- Emit a diagnostic record (R122, R205): `diag_valid <- 1` with its code and byte. -/
def emitDiag (c : DiagCode) (b : Byte) (s : State) : State :=
  s.withUsb { s.usb with diagValid := true, diagCode := c, diagByte := b }

/-- The fatal conditions (R240, R123). -/
inductive FatalCode where
  /-- R241. -/
  | overflow
  /-- R242. -/
  | init
  /-- R243. -/
  | decode
deriving DecidableEq, Repr

/-- `raise Fatal(code)`: halt entry (R28, R244), the block's one way to take an exception. The Scanner's fatals write
`sfatal`, release every row and move the Scanner to HALTED; the Transmitter's writes `tfatal` and moves the
Transmitter to HALTED. What the raising rule records (`lost`, `bad`, the record) it writes before. Nothing is saved
for a return: there is none (R247, R260), only `applyReset` leaves a halt. -/
def raiseFatal (c : FatalCode) (s : State) : State :=
  match c with
  | .overflow => s.withScan { s.scan with sfatal := .overflow, rowN := rowsIdle, sphase := .halted }
  | .init => s.withScan { s.scan with sfatal := .init, rowN := rowsIdle, sphase := .halted }
  | .decode => s.withUsb { s.usb with tfatal := true, tphase := .halted }

/-- `rst_n = 0` (R154, R270, R271): both domains take their reset values, no slot has a value, no agent steps. It is
also the only way out of a halt (R247). The scenario and the model's counters go on. notes/assumptions/13.md. -/
def applyReset (s : State) : State :=
  { s with scan := ScanRegs.reset, mem := [], usb := UsbRegs.reset, obs := Obs.quiet, resets := s.resets + 1 }

/-- `SyncR2W` (R187): the scan domain's synchroniser shifts, from the values `pre` held before the edge. -/
def syncR2W (pre s : State) : State :=
  s.withScan { s.scan with wq2Rgray := pre.scan.wq1Rgray, wq1Rgray := pre.usb.rgray }

/-- `SyncW2R` (R188): the USB domain's synchroniser shifts, from the values `pre` held before the edge. -/
def syncW2R (pre s : State) : State :=
  s.withUsb { s.usb with rq2Wgray := pre.usb.rq1Wgray, rq1Wgray := pre.scan.wgray }

/-- `diag_valid <- 0`, which every USB step writes unless its phase emits a record (R200, R205). -/
def clearDiag (s : State) : State := s.withUsb { s.usb with diagValid := false }

/-- `OpWaitHs` (R163). -/
def opWaitHs (s : State) : State :=
  if s.pins.hsValid then
    if s.pins.hsData = 0#32 then raiseFatal .init s
    else s.withScan { s.scan with settle := settleLoad s.pins.hsData, row := 0#3, sphase := .strobe }
  else s

/-- `OpStrobe` (R164). -/
def opStrobe (s : State) : State :=
  s.withScan { s.scan with rowN := strobeLine s.scan.row, col := 0#3, cnt := s.scan.settle, sphase := .settle }

/-- `OpSettle` (R165). -/
def opSettle (s : State) : State :=
  if s.scan.cnt ≤ 1#16 then s.withScan { s.scan with sphase := .sample }
  else s.withScan { s.scan with cnt := s.scan.cnt - 1#16 }

/-- The end of `OpSample` when it did not halt (R166): the last column goes to RELEASE, another to its settle wait. -/
def nextColumn (s : State) : State :=
  if s.scan.col = 7#3 then s.withScan { s.scan with sphase := .release }
  else s.withScan { s.scan with col := s.scan.col + 1#3, cnt := s.scan.settle, sphase := .settle }

/-- The level `Draw_Col(row, col)` read as a key: a line pulled low is pressed (R27, R34, R166). -/
def samplePressed (s : State) : Bool := !s.pins.colN.getLsbD s.scan.col.toNat

/-- An edge of key `k` (R166): the snapshot bit takes the new value, ENCODE_EVT forms the byte, and the byte is pushed;
a full queue records it in `lost` and halts the Scanner (R241, 92 D10). -/
def keyEdge (k : BitVec 7) (pressed : Bool) (s : State) : State :=
  let b := encodeEvt k pressed
  let s1 := (s.withScan { s.scan with snap := setSnapBit s.scan.snap k pressed }).withObs { s.obs with evt := some b }
  if wfull s then raiseFatal .overflow (s1.withScan { s1.scan with lost := b })
  else nextColumn (push b s1)

/-- `OpSample` (R166): no key and no change only advance the column. -/
def opSample (s : State) : State :=
  match classify s.scan.row s.scan.col with
  | .noKeyLow => nextColumn s
  | .noKeyHigh => nextColumn s
  | .key k =>
    if samplePressed s = snapBit s.scan.snap k then nextColumn s else keyEdge k (samplePressed s) s

/-- `OpRelease` (R167). -/
def opRelease (s : State) : State :=
  s.withScan { s.scan with
    rowN := rowsIdle, row := if s.scan.row = 6#3 then 0#3 else s.scan.row + 1#3, sphase := .strobe }

/-- `OpHalted` (R168): no register of the Scanner changes. -/
def opHalted (s : State) : State := s

/-- The scan-domain case of R160: the action the phase register selects. -/
def scanAction (s : State) : State :=
  match s.scan.sphase with
  | .waitHs => opWaitHs s
  | .strobe => opStrobe s
  | .settle => opSettle s
  | .sample => opSample s
  | .release => opRelease s
  | .halted => opHalted s

/-- `OpService` (R201). -/
def opService (s : State) : State :=
  if s.pins.svcDone then s.withUsb { s.usb with tphase := .peek } else s

/-- `OpPeek` (R202): an empty queue ends the iteration; a reserved byte is recorded and halts the Transmitter; a legal
byte gives its packet, is held, and is attempted. -/
def opPeek (s : State) : State :=
  let s0 := s.withObs { s.obs with head := some (peekHead s) }
  match peekHead s with
  | none => s0.withUsb { s0.usb with tphase := .service }
  | some b =>
    match decodeEvt b with
    | none => raiseFatal .decode (emitDiag .fatalDecode b (s0.withUsb { s0.usb with bad := b }))
    | some (k, e) =>
      let p := encodePkt k e
      (s0.withUsb { s0.usb with
        pkt0 := p.p0, pkt1 := p.p1, pkt2 := p.p2, pkt3 := p.p3, hold := b, tphase := .attempt }).withObs
        { s0.obs with pkt := some p }

/-- The end of an answered attempt (R203). -/
def endAttempt (s : State) : State := s.withUsb { s.usb with tphase := .service }

/-- `OpAttempt` (R203): on success POP and the SENT record, on failure the SEND_FAIL record alone; no answer waits. -/
def opAttempt (s : State) : State :=
  if s.pins.txDone then
    if s.pins.txOk then
      let s1 := pop (s.withObs { s.obs with delivered := some (txLanes s) })
      endAttempt (emitDiag .sent s.usb.hold s1)
    else endAttempt (emitDiag .sendFail s.usb.hold s)
  else s

/-- `OpTxHalted` (R204): no Transmitter register changes. -/
def opTxHalted (s : State) : State := s

/-- The USB-domain case of R200: the action the phase register selects. -/
def usbAction (s : State) : State :=
  match s.usb.tphase with
  | .service => opService s
  | .peek => opPeek s
  | .attempt => opAttempt s
  | .halted => opTxHalted s

end Sys2Proof.Machine
end

