-- ==== Sys2Proof/Machine/Diagnostics.lean ====
section
/-! DEFINITION. The meanings of the diagnostic records (30_encoding.md rule R122): each writes the three diagnostic
output registers (R64, R205) and nothing else. -/
namespace Sys2Proof.Machine

/-- DIAG_SENT (R122, R203). -/
def execDiagSent (b : Byte) (s : State) : Host.Outcome State Fault Refusal := .next (emitDiag .sent b s)

/-- DIAG_SEND_FAIL (R122, R203). -/
def execDiagSendFail (b : Byte) (s : State) : Host.Outcome State Fault Refusal := .next (emitDiag .sendFail b s)

/-- DIAG_FATAL_DECODE (R122, R202). -/
def execDiagFatalDecode (b : Byte) (s : State) : Host.Outcome State Fault Refusal :=
  .next (emitDiag .fatalDecode b s)

end Sys2Proof.Machine
end

