-- ==== Sys2Proof/WellFormed.lean ====
section
/-! DEFINITION. Which operations are well formed: the one operand range a format's mask cannot express is the
KeyIndex of EVT8, `K` in 0..48 (30_encoding.md rules R112, R131). -/
namespace Sys2Proof

/-- `NKEYS = 49`: a KeyIndex is 0..48 (R12). -/
def legalKey (k : BitVec 7) : Bool := k.toNat < 49

/-- An operation is well formed when its KeyIndex, if it has one, is legal (R112). -/
def Instr.wf : Instr → Bool
  | .waitHs | .strobe | .settle | .sample | .release | .halted => true
  | .service | .peek | .attempt | .haltedTx => true
  | .push _ | .pop | .peekQ => true
  | .evtPress k => legalKey k
  | .evtRelease k => legalKey k
  | .noteOn _ _ | .noteOff _ _ => true
  | .handoff _ | .svcDone | .txDoneOk | .txDoneFail => true
  | .diagSent _ | .diagSendFail _ | .diagFatalDecode _ => true

end Sys2Proof
end

