-- ==== Sys2Proof/Machine/Encoding.lean ====
section
/-! DEFINITION. The meanings of the data encodings: the event byte of ENCODE_EVT (R220) and the packet of ENCODE_PKT
(R114, R115, R224). They are pure functions: they write no register (R226), and their result is what the path carries
in this step (`Obs`, notes/assumptions/5.md). -/
namespace Sys2Proof.Machine

/-- EVT_PRESS (R220, R111): the event byte `1kkkkkkk`; ENCODE_EVT is never given a KeyIndex over 48. -/
def execEvtPress (k : BitVec 7) (s : State) : Host.Outcome State Fault Refusal :=
  if legalKey k then .next (s.withObs { s.obs with evt := some (encodeEvt k true) })
  else .refused .reservedKeyIndex

/-- EVT_RELEASE (R220, R111): the event byte `0kkkkkkk`. -/
def execEvtRelease (k : BitVec 7) (s : State) : Host.Outcome State Fault Refusal :=
  if legalKey k then .next (s.withObs { s.obs with evt := some (encodeEvt k false) })
  else .refused .reservedKeyIndex

/-- NOTE_ON (R114): the packet `09 9c n 7F`, on any channel c its word holds. notes/assumptions/6.md. -/
def execNoteOn (c : BitVec 4) (n : BitVec 7) (s : State) : Host.Outcome State Fault Refusal :=
  .next (s.withObs { s.obs with pkt := some (noteOnPacket c n) })

/-- NOTE_OFF (R115): the packet `08 8c n 7F`. -/
def execNoteOff (c : BitVec 4) (n : BitVec 7) (s : State) : Host.Outcome State Fault Refusal :=
  .next (s.withObs { s.obs with pkt := some (noteOffPacket c n) })

end Sys2Proof.Machine
end

