-- ==== Sys2Proof/Machine/Queue.lean ====
section
/-! DEFINITION. The meanings of the queue's port operations (42_channel.md rules R181 to R185), as the queue takes them
on its own ports (R120). -/
namespace Sys2Proof.Machine

/-- PUSH (R181), with the full case of R182: nothing in the queue changes. notes/assumptions/8.md. -/
def execPush (d : Byte) (s : State) : Host.Outcome State Fault Refusal := .next (tryPush d s)

/-- POP (R185). R185's writes are unconditional; its precondition is the caller's (R186). notes/assumptions/7.md. -/
def execPop (s : State) : Host.Outcome State Fault Refusal := .next (pop s)

/-- PEEK_Q (R183): the head or none is returned; no register changes (R90). -/
def execPeekQ (s : State) : Host.Outcome State Fault Refusal :=
  .next (s.withObs { s.obs with head := some (peekHead s) })

end Sys2Proof.Machine
end

