-- ==== Sys2Proof/Machine/Scanner.lean ====
section
/-! DEFINITION. The meanings of the six Scanner phases (41_scanner.md rules R163 to R168). The synchroniser shift of
the same edge (R160) is the step's, not the phase's (R126). -/
namespace Sys2Proof.Machine

/-- WAIT_HS (R163). -/
def execWaitHs (s : State) : Host.Outcome State Fault Refusal := .next (opWaitHs s)

/-- STROBE (R164). -/
def execStrobe (s : State) : Host.Outcome State Fault Refusal := .next (opStrobe s)

/-- SETTLE (R165). -/
def execSettle (s : State) : Host.Outcome State Fault Refusal := .next (opSettle s)

/-- SAMPLE (R166). -/
def execSample (s : State) : Host.Outcome State Fault Refusal := .next (opSample s)

/-- RELEASE (R167). -/
def execRelease (s : State) : Host.Outcome State Fault Refusal := .next (opRelease s)

/-- HALTED (R168). -/
def execHalted (s : State) : Host.Outcome State Fault Refusal := .next (opHalted s)

end Sys2Proof.Machine
end

