-- ==== Sys2Proof/Machine/Transactions.lean ====
section
/-! DEFINITION. The meanings of the input transactions (30_encoding.md rule R121): each is the step of its domain at
which the input is driven (R129 `HS`, `SVC`, `TX OK`, `TX FAIL`). The phase that reads the input takes it; every other
phase ignores it and does its own action (R153). notes/assumptions/20.md.

DESIGN CHOICE (notes/assumptions/21.md): the level a transaction drives stands in `pins` until another event drives that
input, and an input it does not drive keeps the level that stands there. R27 leaves both open. -/
namespace Sys2Proof.Machine

/-- HANDOFF (R121, R144, R163): a scan-domain step with `hs_valid = 1` and `hs_data = f`. That both
stand afterwards and that the columns are those that stand is the model's choice: notes/assumptions/21.md. -/
def execHandoff (f : BitVec 32) (s : State) : Host.Outcome State Fault Refusal :=
  .next (scanAction (s.withPins { s.pins with hsValid := true, hsData := f }))

/-- SVC_DONE (R121, R145, R201): a USB-domain step with `svc_done = 1` and no send answer. That these
levels stand afterwards is the model's choice: notes/assumptions/21.md. -/
def execSvcDone (s : State) : Host.Outcome State Fault Refusal :=
  .next (usbAction (s.withPins { s.pins with svcDone := true, txDone := false }))

/-- TX_DONE_OK (R121, R146, R203): a USB-domain step with `tx_done = 1` and `tx_ok = 1`. That these levels
stand afterwards is the model's choice: notes/assumptions/21.md. -/
def execTxDoneOk (s : State) : Host.Outcome State Fault Refusal :=
  .next (usbAction (s.withPins { s.pins with svcDone := false, txDone := true, txOk := true }))

/-- TX_DONE_FAIL (R121, R146, R203, R248): a USB-domain step with `tx_done = 1` and `tx_ok = 0`. That these
levels stand afterwards is the model's choice: notes/assumptions/21.md. -/
def execTxDoneFail (s : State) : Host.Outcome State Fault Refusal :=
  .next (usbAction (s.withPins { s.pins with svcDone := false, txDone := true, txOk := false }))

end Sys2Proof.Machine
end

