-- ==== Sys2Proof/Machine/Transmitter.lean ====
section
/-! DEFINITION. The meanings of the four Transmitter phases (43_transmit.md rules R201 to R204). The synchroniser
shift and `diag_valid <- 0` of the same edge (R200) are the step's. -/
namespace Sys2Proof.Machine

/-- SERVICE (R201). -/
def execService (s : State) : Host.Outcome State Fault Refusal := .next (opService s)

/-- PEEK (R202). -/
def execPeek (s : State) : Host.Outcome State Fault Refusal := .next (opPeek s)

/-- ATTEMPT (R203). -/
def execAttempt (s : State) : Host.Outcome State Fault Refusal := .next (opAttempt s)

/-- HALTED_TX (R204). -/
def execHaltedTx (s : State) : Host.Outcome State Fault Refusal := .next (opTxHalted s)

end Sys2Proof.Machine
end

