-- ==== Sys2Proof/Machine/Dispatch.lean ====
section
/-! DEFINITION. The dispatch: one arm per constructor of `Instr`, each a direct call of its meaning. -/
namespace Sys2Proof.Machine

def exec (i : Instr) (s : State) : Host.Outcome State Fault Refusal :=
  match i with
  | .waitHs => Sys2Proof.Machine.execWaitHs s
  | .strobe => Sys2Proof.Machine.execStrobe s
  | .settle => Sys2Proof.Machine.execSettle s
  | .sample => Sys2Proof.Machine.execSample s
  | .release => Sys2Proof.Machine.execRelease s
  | .halted => Sys2Proof.Machine.execHalted s
  | .service => Sys2Proof.Machine.execService s
  | .peek => Sys2Proof.Machine.execPeek s
  | .attempt => Sys2Proof.Machine.execAttempt s
  | .haltedTx => Sys2Proof.Machine.execHaltedTx s
  | .push d => Sys2Proof.Machine.execPush d s
  | .pop => Sys2Proof.Machine.execPop s
  | .peekQ => Sys2Proof.Machine.execPeekQ s
  | .evtPress k => Sys2Proof.Machine.execEvtPress k s
  | .evtRelease k => Sys2Proof.Machine.execEvtRelease k s
  | .noteOn c n => Sys2Proof.Machine.execNoteOn c n s
  | .noteOff c n => Sys2Proof.Machine.execNoteOff c n s
  | .handoff f => Sys2Proof.Machine.execHandoff f s
  | .svcDone => Sys2Proof.Machine.execSvcDone s
  | .txDoneOk => Sys2Proof.Machine.execTxDoneOk s
  | .txDoneFail => Sys2Proof.Machine.execTxDoneFail s
  | .diagSent b => Sys2Proof.Machine.execDiagSent b s
  | .diagSendFail b => Sys2Proof.Machine.execDiagSendFail b s
  | .diagFatalDecode b => Sys2Proof.Machine.execDiagFatalDecode b s

end Sys2Proof.Machine
end

