-- ==== Sys2Proof/Decode.lean ====
section
/-! DEFINITION. The decoder of every format of 30_encoding.md (R110 to R122, R126, R127), total on every code
word and rejecting by name, and the encoder beside it. A code word is read as one number with bit 0 its least
significant bit (R22); USBMIDI4 is `(P0, P1, P2, P3)` with P0 in bits 31:24 (R131). -/
namespace Sys2Proof

/-- Why a code word is no operation of its format. -/
inductive Reject where
  /-- A bit above the format's width is set: the word is no word of that format (R110, R128). -/
  | tooWide
  /-- SPHASE `110` or `111`: reserved (R118, R127). -/
  | reservedPhase
  /-- EVT8 with K in 49..127: reserved, decode fails explicitly (R112, R127). -/
  | reservedKeyIndex
  /-- USBMIDI4 other than NOTE_ON and NOTE_OFF: never presented (R116, R127). -/
  | notProduced
  /-- DIAG11 with code `11`: reserved, never emitted (R122, R127). -/
  | reservedDiagCode
  /-- The format's idle pattern: WPORT `we = 0`, HS33 `hs_valid = 0`, SVC1 `0`, TXD2 `0x`, DIAG11
  `diag_valid = 0`. It selects no operation (R120, R121, R122). -/
  | idle
deriving DecidableEq, Repr

/-- The width of each format in bits (R110). -/
def Format.width : Format → Nat
  | .sphase => 3
  | .tphase => 2
  | .wport => 9
  | .rport => 1
  | .evt8 => 8
  | .usbmidi4 => 32
  | .hs33 => 33
  | .svc1 => 1
  | .txd2 => 2
  | .diag11 => 11

/-- The bits `hi = lo + len - 1` down to `lo` of a code word (R22). -/
def field (w : Code) (lo len : Nat) : BitVec len := w.extractLsb' lo len

/-- SPHASE (R118): codes 0 to 5; 6 and 7 are reserved. -/
def decodeSphase (w : Code) : Except Reject Instr :=
  match w.toNat with
  | 0 => .ok .waitHs
  | 1 => .ok .strobe
  | 2 => .ok .settle
  | 3 => .ok .sample
  | 4 => .ok .release
  | 5 => .ok .halted
  | _ => .error .reservedPhase

/-- TPHASE (R119): no code is reserved. -/
def decodeTphase (w : Code) : Except Reject Instr :=
  match w.toNat with
  | 0 => .ok .service
  | 1 => .ok .peek
  | 2 => .ok .attempt
  | _ => .ok .haltedTx

/-- WPORT (R120): `we = 1` is a PUSH of `wdata`, `we = 0` does nothing. -/
def decodeWport (w : Code) : Except Reject Instr :=
  if w.getLsbD 8 then .ok (.push (field w 0 8)) else .error .idle

/-- RPORT (R120): `re = 1` is a POP; without a strobe the head is only read (PEEK_Q). -/
def decodeRport (w : Code) : Except Reject Instr :=
  if w.getLsbD 0 then .ok .pop else .ok .peekQ

/-- EVT8 (R111, R112): bit 7 the edge, bits 6:0 the KeyIndex; K in 49..127 is reserved. -/
def decodeEvt8 (w : Code) : Except Reject Instr :=
  let k : BitVec 7 := field w 0 7
  if legalKey k then
    if w.getLsbD 7 then .ok (.evtPress k) else .ok (.evtRelease k)
  else .error .reservedKeyIndex

/-- USBMIDI4 (R113 to R116, R131): a row is selected when `v & mask == match`. -/
def decodeUsbMidi4 (w : Code) : Except Reject Instr :=
  if w &&& 0xFFF080FF#40 = 0x0990007F#40 then .ok (.noteOn (field w 16 4) (field w 8 7))
  else if w &&& 0xFFF080FF#40 = 0x0880007F#40 then .ok (.noteOff (field w 16 4) (field w 8 7))
  else .error .notProduced

/-- HS33 (R121): `hs_valid = 1` offers `hs_data`. -/
def decodeHs33 (w : Code) : Except Reject Instr :=
  if w.getLsbD 32 then .ok (.handoff (field w 0 32)) else .error .idle

/-- SVC1 (R121): 1 completes the pending service request. -/
def decodeSvc1 (w : Code) : Except Reject Instr :=
  if w.getLsbD 0 then .ok .svcDone else .error .idle

/-- TXD2 (R121): `11` succeeded, `10` failed, `0x` no answer. -/
def decodeTxd2 (w : Code) : Except Reject Instr :=
  if w.getLsbD 1 then
    if w.getLsbD 0 then .ok .txDoneOk else .ok .txDoneFail
  else .error .idle

/-- DIAG11 (R122): bit 10 valid, bits 9:8 the code, bits 7:0 the byte; code `11` is reserved. -/
def decodeDiag11 (w : Code) : Except Reject Instr :=
  if w.getLsbD 10 then
    match (field w 8 2).toNat with
    | 0 => .ok (.diagSent (field w 0 8))
    | 1 => .ok (.diagSendFail (field w 0 8))
    | 2 => .ok (.diagFatalDecode (field w 0 8))
    | _ => .error .reservedDiagCode
  else .error .idle

/-- The decoder: which operation a code word of a format selects (R126, R127). -/
def decode (f : Format) (w : Code) : Except Reject Instr :=
  if w >>> f.width = 0#40 then
    match f with
    | .sphase => decodeSphase w
    | .tphase => decodeTphase w
    | .wport => decodeWport w
    | .rport => decodeRport w
    | .evt8 => decodeEvt8 w
    | .usbmidi4 => decodeUsbMidi4 w
    | .hs33 => decodeHs33 w
    | .svc1 => decodeSvc1 w
    | .txd2 => decodeTxd2 w
    | .diag11 => decodeDiag11 w
  else .error .tooWide

/-- The encoder: the code word of an operation in its own format, zero-extended, written field by field from
R111 to R122. -/
def encode : Instr → Code
  | .waitHs => 0#40
  | .strobe => 1#40
  | .settle => 2#40
  | .sample => 3#40
  | .release => 4#40
  | .halted => 5#40
  | .service => 0#40
  | .peek => 1#40
  | .attempt => 2#40
  | .haltedTx => 3#40
  | .push d => (1#1 ++ d).setWidth 40
  | .pop => 1#40
  | .peekQ => 0#40
  | .evtPress k => (1#1 ++ k).setWidth 40
  | .evtRelease k => (0#1 ++ k).setWidth 40
  | .noteOn c n => (0x09#8 ++ 0x9#4 ++ c ++ 0#1 ++ n ++ 0x7F#8).setWidth 40
  | .noteOff c n => (0x08#8 ++ 0x8#4 ++ c ++ 0#1 ++ n ++ 0x7F#8).setWidth 40
  | .handoff f => (1#1 ++ f).setWidth 40
  | .svcDone => 1#40
  | .txDoneOk => 3#40
  | .txDoneFail => 2#40
  | .diagSent b => (0b100#3 ++ b).setWidth 40
  | .diagSendFail b => (0b101#3 ++ b).setWidth 40
  | .diagFatalDecode b => (0b110#3 ++ b).setWidth 40

/-- The format a word of the opcode table is read in, from the number of bits alone. The table's formats share
code words (SPHASE, TPHASE, RPORT, SVC1, TXD2 and EVT8 all have a code 0 or 1), and the bits do not say which
port carries them, so a width in whole bytes picks ONE format for each word: DESIGN CHOICE, notes/assumptions/4.md.
An exact bit width (1, 2, 3, 9, 11, 33) picks the format of that width. -/
def tableFormat (nbits w : Nat) : Format :=
  match nbits with
  | 1 => .rport
  | 2 => .tphase
  | 3 => .sphase
  | 8 => if w < 6 then .sphase else .evt8
  | 9 => .wport
  | 11 => .diag11
  | 16 => if w < 512 then .wport else .diag11
  | 32 => .usbmidi4
  | _ => .hs33

/-- The operation the decoder reads from the table's word `w` of `nbits` bits. -/
def decodeTableWord (nbits w : Nat) : Option Instr :=
  if w < 2 ^ 40 then (decode (tableFormat nbits w) (BitVec.ofNat 40 w)).toOption else none

end Sys2Proof
end

