-- ==== Sys2Proof/Machine/Fetch.lean ====
section
/-! DEFINITION. What the next step is and which operation it selects. The block fetches no instructions (R2, R98): a
clock edge selects the operation of its domain's phase register (R42, R160, R200), and a sub-block used on its own
takes the code word on its port (R120, R121, R122, R253). -/
namespace Sys2Proof.Machine

/-- The next event: the scenario's first (R129), or, when the scenario is empty, whatever clock edge and inputs the
environment chooses (R92, R150). -/
def nextEvent (s : State) : Event :=
  match s.events with
  | e :: _ => e
  | [] => .edge (Config.freeEdge s.tick)

/-- The input levels at an event: an edge drives its own domain's ports (R27), a port event drives none of them
here. An input the event does not drive keeps the level the last event that drove it left, a port transaction included:
the model's choice (R27 leaves it open), notes/assumptions/21.md. -/
def eventPins (ev : Event) (p : Pins) : Pins :=
  match ev with
  | .edge (.scan v d c) => { p with hsValid := v, hsData := d, colN := c }
  | .edge (.usb sd td ok) => { p with svcDone := sd, txDone := td, txOk := ok }
  | .edge .reset => p
  | .port _ _ => p

/-- Consume the event: it leaves the scenario (or one free edge is drawn), its levels stand on the pins, and the port
trace of the step before is cleared. No register of the block changes. -/
def takeEvent (s : State) : State :=
  { s with
    events := s.events.tail,
    tick := if s.events.isEmpty then s.tick + 1 else s.tick,
    pins := eventPins (nextEvent s) s.pins,
    obs := Obs.quiet }

/-- The code word that selects the step's operation: the phase register's code at a clock edge (R118, R119, R160,
R200), the driven word at a port; none in reset (R270). -/
def fetchWord (s : State) : Option (Format × Code) :=
  match nextEvent s with
  | .edge (.scan _ _ _) => some (.sphase, (sphaseCode s.scan.sphase).setWidth 40)
  | .edge (.usb _ _ _) => some (.tphase, (tphaseCode s.usb.tphase).setWidth 40)
  | .edge .reset => none
  | .port f w => some (f, w)

/-- Which clock a format's operations step on (R40, R89, R140, R141); the data encodings are combinational and take no
clock step (44_keymap_encoding.md, before R220). notes/assumptions/11.md. -/
inductive Domain where
  /-- `scan_clk`. -/
  | scan
  /-- `usb_clk`. -/
  | usb
  /-- No clock. -/
  | comb
deriving DecidableEq, Repr

/-- The domain of each format. -/
def domainOf : Format → Domain
  | .sphase => .scan
  | .wport => .scan
  | .hs33 => .scan
  | .tphase => .usb
  | .rport => .usb
  | .svc1 => .usb
  | .txd2 => .usb
  | .diag11 => .usb
  | .evt8 => .comb
  | .usbmidi4 => .comb

/-- What a step of the domain writes before its operation may override it: a USB step clears `diag_valid` (R200). -/
def beforeStep (d : Domain) (s : State) : State :=
  match d with
  | .scan => s
  | .usb => clearDiag s
  | .comb => s

/-- What every step of the domain adds to its operation: the synchroniser shift, from the values before the edge
(R160, R200). -/
def afterStep (d : Domain) (pre s : State) : State :=
  match d with
  | .scan => syncR2W pre s
  | .usb => syncW2R pre s
  | .comb => s

/-- Apply `g` to the next state of an outcome. -/
def mapNext (g : State → State) (o : Host.Outcome State Fault Refusal) : Host.Outcome State Fault Refusal :=
  match o with
  | .next s => .next (g s)
  | .fault r => .fault r
  | .refused r => .refused r

/-- The step of a port whose word is its idle pattern: WPORT and DIAG11 do nothing (R120, R122); an input transaction's
idle word is the step of its domain with that input at 0 (R121, R163, R201, R203). notes/assumptions/12.md. That the 0
stands afterwards, and the inputs it does not drive as they stood, is the model's choice: notes/assumptions/21.md. -/
def idleStep (f : Format) (s : State) : State :=
  match f with
  | .hs33 => scanAction (s.withPins { s.pins with hsValid := false })
  | .svc1 => usbAction (s.withPins { s.pins with svcDone := false, txDone := false })
  | .txd2 => usbAction (s.withPins { s.pins with svcDone := false, txDone := false })
  | _ => s

/-- The state with the word `w` of format `f` as its next event. A phase code is put where a phase is selected from:
in the phase register, with an edge of its clock next, at the input levels that stand (the model's choice:
notes/assumptions/21.md). -/
def scheduleWord (s : State) (f : Format) (w : Code) : State :=
  match f, sphaseOfCode w, tphaseOfCode w with
  | .sphase, some p, _ =>
    { s with
      scan := { s.scan with sphase := p },
      events := .edge (.scan s.pins.hsValid s.pins.hsData s.pins.colN) :: s.events }
  | .tphase, _, some p =>
    { s with
      usb := { s.usb with tphase := p },
      events := .edge (.usb s.pins.svcDone s.pins.txDone s.pins.txOk) :: s.events }
  | _, _, _ => { s with events := .port f w :: s.events }

end Sys2Proof.Machine
end

