-- ==== Sys2Proof/Machine/Step.lean ====
section
/-! DEFINITION. One step of the block (R92): take the next event, select the operation (Machine/Fetch.lean), run it
(Machine/Dispatch.lean) with what its domain's edge adds (R160, R200). -/
namespace Sys2Proof.Machine

/-- The step that runs a code word of a format, from the state with its event taken. -/
def stepWord (f : Format) (w : Code) (s : State) : Host.Outcome State Fault Refusal :=
  match decode f w with
  | .ok i => mapNext (afterStep (domainOf f) s) (exec i (beforeStep (domainOf f) s))
  | .error .idle => .next (afterStep (domainOf f) s (idleStep f (beforeStep (domainOf f) s)))
  | .error _ => .refused (.reservedEncoding f)

/-- One step: reset (R270), or the operation the event selects. -/
def step (s : State) : Host.Outcome State Fault Refusal :=
  match fetchWord s with
  | none => .next (applyReset (takeEvent s))
  | some (f, w) => stepWord f w (takeEvent s)

/-- The state with the opcode table's word `w` (of `nbits` bits) as its next operation. notes/assumptions/4.md. -/
def State.withFetchWord (s : State) (nbits w : Nat) : State :=
  scheduleWord s (tableFormat nbits w) (BitVec.ofNat 40 w)

end Sys2Proof.Machine
end

