-- ==== Sys2Proof/Safety.lean ====
section
/-! DEFINITION. The terms claims are stated in: what a good state of the composed block is (the derived rules R175,
R189 to R191, R207, R244, R253), what the queue holds (R91), and runs along a list of clock edges (R92, R155). -/
namespace Sys2Proof.Machine

/-- An event of the composed block: a clock edge with its inputs, or reset; no port is driven from outside (R180). -/
def eventIsEdge : Event → Bool
  | .edge _ => true
  | .port _ _ => false

/-- The scenario drives the composed block only: every port is used by its one agent (R180, R254). -/
def Composed (s : State) : Prop := ∀ e ∈ s.events, eventIsEdge e = true

/-- How far pointer `b` is ahead of pointer `a`, modulo 256 (R24, R67). -/
def ptrDist (a b : Ptr) : Nat := (b - a).toNat

/-- The queue's pointers (R124, R189): each gray copy matches its binary pointer, and going round the ring from the
write side's oldest view, the pointers stand in the order `wq2, wq1, rbin, rq2, rq1, wbin`, all within 128 places. -/
structure QueueInv (s : State) : Prop where
  /-- R53, R124. -/
  wgray : s.scan.wgray = bin2gray s.scan.wbin
  /-- R58, R124. -/
  rgray : s.usb.rgray = bin2gray s.usb.rbin
  /-- R189: the views only lag, and never by more than the queue holds. -/
  order : ptrDist (gray2bin s.scan.wq2Rgray) (gray2bin s.scan.wq1Rgray)
      + ptrDist (gray2bin s.scan.wq1Rgray) s.usb.rbin
      + ptrDist s.usb.rbin (gray2bin s.usb.rq2Wgray)
      + ptrDist (gray2bin s.usb.rq2Wgray) (gray2bin s.usb.rq1Wgray)
      + ptrDist (gray2bin s.usb.rq1Wgray) s.scan.wbin ≤ Config.depth

/-- The queue's storage (R80, R191): canonical, and every unconsumed slot holds a legal event byte a PUSH wrote. -/
structure StorageInv (s : State) : Prop where
  /-- R80. -/
  canonical : s.mem.wf
  /-- R112, R191. -/
  filled : ∀ j, j < (tlevel s).toNat →
    ∃ b, s.mem.read (slotOf (s.usb.rbin + BitVec.ofNat 8 j)) = some b ∧ (decodeEvt b).isSome = true

/-- The Transmitter (R207, R253): it never halts, and during ATTEMPT it holds the head byte and its packet. -/
structure TxInv (s : State) : Prop where
  /-- R253. -/
  running : s.usb.tfatal = false ∧ s.usb.tphase ≠ .halted
  /-- R186, R202, R207. -/
  inFlight : s.usb.tphase = .attempt →
    rempty s = false ∧ s.mem.read (slotOf s.usb.rbin) = some s.usb.hold ∧
      ∃ k e, decodeEvt s.usb.hold = some (k, e) ∧ txLanes s = encodePkt k e

/-- The Scanner is scanning: past the Handoff and not halted. -/
def scanning (p : ScanPhase) : Bool :=
  match p with
  | .waitHs => false
  | .strobe => true
  | .settle => true
  | .sample => true
  | .release => true
  | .halted => false

/-- A row is driven between steps in these phases (R175). -/
def rowDriven (p : ScanPhase) : Bool :=
  match p with
  | .waitHs => false
  | .strobe => false
  | .settle => true
  | .sample => true
  | .release => true
  | .halted => false

/-- The Scanner (R44, R165, R175, R227, R244, R249). -/
structure ScanInv (s : State) : Prop where
  /-- R44: row 7 never occurs. -/
  row : s.scan.row ≠ 7#3
  /-- R175: exactly the line of `row` is low in SETTLE, SAMPLE and RELEASE, and none otherwise. -/
  lines : s.scan.rowN = if rowDriven s.scan.sphase then strobeLine s.scan.row else rowsIdle
  /-- R21, R227: the settle length is 3..4297 once the Handoff was accepted. -/
  settleLength : scanning s.scan.sphase = true → 3#16 ≤ s.scan.settle ∧ s.scan.settle ≤ 4297#16
  /-- R165: a settle wait counts from `settle` down to 1. -/
  count : s.scan.sphase = .settle → 1#16 ≤ s.scan.cnt ∧ s.scan.cnt ≤ s.scan.settle
  /-- R244, R49: the fatal code is set exactly when the Scanner is halted. -/
  fatal : s.scan.sfatal = .none ↔ s.scan.sphase ≠ .halted

/-- A good state of the composed block. -/
structure BlockInv (s : State) : Prop where
  /-- R180. -/
  composed : Composed s
  /-- R189. -/
  queue : QueueInv s
  /-- R191. -/
  storage : StorageInv s
  /-- R207, R253. -/
  tx : TxInv s
  /-- R175. -/
  scanner : ScanInv s

/-- The unconsumed bytes, oldest first (R91, R189, R191). -/
def queueBytes (s : State) : List Byte :=
  (List.range (tlevel s).toNat).map fun j => readSlot s (slotOf (s.usb.rbin + BitVec.ofNat 8 j))

/-- The scan registers after a sample that did not halt (R166, its last lines): column 7 ends the row, another column
starts the next settle wait. -/
def advanced (r : ScanRegs) : ScanRegs :=
  if r.col.toNat = 7 then { r with sphase := .release }
  else { r with col := r.col + 1#3, cnt := r.settle, sphase := .settle }

/-- The scan registers of a halted Scanner (R244). -/
def haltedScan (c : ScanFatal) (r : ScanRegs) : ScanRegs :=
  { r with sfatal := c, rowN := 0b1111111#7, sphase := .halted }

/-- The operation a Scanner phase selects (R160). -/
def scanInstr : ScanPhase → Instr
  | .waitHs => .waitHs
  | .strobe => .strobe
  | .settle => .settle
  | .sample => .sample
  | .release => .release
  | .halted => .halted

/-- The operation a Transmitter phase selects (R200). -/
def txInstr : TxPhase → Instr
  | .service => .service
  | .peek => .peek
  | .attempt => .attempt
  | .halted => .haltedTx

/-- Two states agree on all the spec gives the block: both domains and the storage (R40). -/
def SameBlock (s t : State) : Prop := s.scan = t.scan ∧ s.mem = t.mem ∧ s.usb = t.usb

/-- The edge is a `scan_clk` edge. -/
def edgeIsScan : Edge → Bool
  | .scan _ _ _ => true
  | .usb _ _ _ => false
  | .reset => false

/-- The edge is a `usb_clk` edge. -/
def edgeIsUsb : Edge → Bool
  | .scan _ _ _ => false
  | .usb _ _ _ => true
  | .reset => false

/-- The edge is not a reset. -/
def edgeIsClock : Edge → Bool
  | .scan _ _ _ => true
  | .usb _ _ _ => true
  | .reset => false

/-- One step of the composed block at the edge `e` (R92). -/
def stepEdge (e : Edge) (s : State) : Host.Outcome State Fault Refusal := step { s with events := [.edge e] }

/-- The states along a run of edges, each after its step (R92, R155). -/
def trace : List Edge → State → List State
  | [], _ => []
  | e :: es, s =>
    match stepEdge e s with
    | .next t => t :: trace es t
    | _ => []

/-- The state a run of edges ends in. -/
def lastState (es : List Edge) (s : State) : State := (trace es s).getLastD s

/-- The level the step at edge `e` samples for key `k`, if it is a SAMPLE of key `k` (R166); true is pressed. -/
def sampleOf (k : BitVec 7) (e : Edge) (s : State) : Option Bool :=
  match e, s.scan.sphase, classify s.scan.row s.scan.col with
  | .scan _ _ c, .sample, .key k' => if k' = k then some (!c.getLsbD s.scan.col.toNat) else none
  | _, _, _ => none

/-- The samples of key `k` along a run (R170). -/
def keySamples (k : BitVec 7) : List Edge → State → List Bool
  | [], _ => []
  | e :: es, s =>
    match stepEdge e s with
    | .next t => (sampleOf k e s).toList ++ keySamples k es t
    | _ => []

/-- The raw indices sampled along a run, in order (R169). -/
def sampledRaws : List Edge → State → List Nat
  | [], _ => []
  | e :: es, s =>
    match stepEdge e s with
    | .next t =>
      (if edgeIsScan e && s.scan.sphase == .sample then [(posRaw s.scan.row s.scan.col).toNat] else []) ++ sampledRaws es t
    | _ => []

/-- The edge of the byte a step pushed, if the byte is key `k`'s (R170, R172). -/
def pushOf (k : BitVec 7) (o : Obs) : Option Bool :=
  match o.push with
  | none => none
  | some b =>
    match decodeEvt b with
    | none => none
    | some (k', e) => if k' = k then some e else none

/-- The edges of the bytes pushed for key `k` along a run (R170, R172). -/
def keyPushes (k : BitVec 7) (es : List Edge) (s : State) : List Bool :=
  (trace es s).filterMap fun t => pushOf k t.obs

/-- The values of a sequence of samples that differ from the one before, starting from `p` (R170). -/
def changes (p : Bool) : List Bool → List Bool
  | [] => []
  | x :: xs => if x = p then changes p xs else x :: changes x xs

/-- The diagnostic records along a run: one for each USB step after which `diag_valid = 1`; it stays 1 for the scan
steps of the same `usb_clk` cycle, which add none (R205). -/
def diagRecords : List Edge → State → List (DiagCode × Byte)
  | [], _ => []
  | e :: es, s =>
    match stepEdge e s with
    | .next t =>
      (if edgeIsUsb e && t.usb.diagValid then [(t.usb.diagCode, t.usb.diagByte)] else []) ++ diagRecords es t
    | _ => []

/-- The packets presented along a run: the lanes at each rise of `tx_req`, which then holds them until the answer
(R146, R208). -/
def presentations : List Edge → State → List Packet
  | [], _ => []
  | e :: es, s =>
    match stepEdge e s with
    | .next t => (if !txReq s && txReq t then [txLanes t] else []) ++ presentations es t
    | _ => []

/-- The answer an edge brings to a pending attempt, if it brings one: `tx_ok` with `tx_done = 1` (R146). -/
def answerOf (e : Edge) (s : State) : Option Bool :=
  match e, s.usb.tphase with
  | .usb _ true ok, .attempt => some ok
  | _, _ => none

/-- The answers to the attempts along a run, in order (R208). -/
def answers : List Edge → State → List Bool
  | [], _ => []
  | e :: es, s =>
    match stepEdge e s with
    | .next t => (answerOf e s).toList ++ answers es t
    | _ => []

/-- How many `scan_clk` edges a run has (R289). -/
def scanSteps (es : List Edge) : Nat := (es.filter edgeIsScan).length

/-- The packets delivered along a run (R156). -/
def deliveries (es : List Edge) (s : State) : List Packet :=
  (trace es s).filterMap fun t => t.obs.delivered

/-- A Transmitter iteration whose answers come at the first step: SERVICE completed, PEEK, and the attempt answered
`ok` (R206, R290). -/
def iteration (ok : Bool) : List Edge :=
  [.usb true false false, .usb false false false, .usb false true ok]

end Sys2Proof.Machine
end

