-- ==== Sys2Proof/Certificates/Slice0/Obligations.lean ====
section
/-! DEFINITION. The statements for the provers. A statement that gives `exec i s = .next t` says what the operation
does AND its frame: `t` is written as an update of `s`, so every field it does not name (every register of both
domains, every slot of the storage) is that of `s`. The fields `pins`, `obs`, `events`, `tick` and `resets` are the
model's own (notes/assumptions/1.md, 5.md, 13.md), not registers of the spec; where a statement names one, it says which
level an input port has at the step, or what an internal path carried in it. -/
open Sys2Proof Sys2Proof.Machine

/-! ### Encodings -/

/-- R110 to R122: for every well-formed operation, with every operand, decoding its code word in its own format gives
it back. -/
def Obligations.DecodeOfEncodeIsTheOperation : Prop :=
  ∀ i : Instr, i.wf = true → decode i.format (encode i) = .ok i

/-- R126, R127: a code word that decodes is exactly the encoding of a well-formed operation of that format: no
reserved word falls through to an operation, and no operation has two words. (USBMIDI4 words of every channel decode,
the model's choice: notes/assumptions/6.md.) -/
def Obligations.DecodedWordIsTheEncoding : Prop :=
  ∀ (f : Format) (w : Code) (i : Instr), decode f w = .ok i → i.wf = true ∧ i.format = f ∧ encode i = w

/-- Words written out from R111, R114, R118 to R122: one of every format. -/
def Obligations.SpecWordsDecode : Prop :=
  decode .sphase 0b011#40 = .ok .sample ∧
  decode .tphase 0b10#40 = .ok .attempt ∧
  decode .wport 0b110010110#40 = .ok (.push 0x96#8) ∧
  decode .rport 0b1#40 = .ok .pop ∧
  decode .evt8 0b10010110#40 = .ok (.evtPress 22#7) ∧
  decode .usbmidi4 0x09903A7F#40 = .ok (.noteOn 0#4 0x3A#7) ∧
  decode .hs33 0x107735940#40 = .ok (.handoff 125000000#32) ∧
  decode .svc1 0b1#40 = .ok .svcDone ∧
  decode .txd2 0b10#40 = .ok .txDoneFail ∧
  decode .diag11 0b11000110001#40 = .ok (.diagFatalDecode 0x31#8)

/-- R112, R118, R122, R127: every reserved code word is rejected by its own name: EVT8 with K in 49..127, SPHASE 6
and 7, DIAG11 code 3; and driving one onto its port is refused by `step` (the refusal is the model's choice:
notes/assumptions/18.md). -/
def Obligations.ReservedCodesAreRejected : Prop :=
  (∀ b : Byte, 49 ≤ b.toNat % 128 → decode .evt8 (b.setWidth 40) = .error .reservedKeyIndex) ∧
  decode .sphase 6#40 = .error .reservedPhase ∧ decode .sphase 7#40 = .error .reservedPhase ∧
  (∀ b : Byte, decode .diag11 ((0b111#3 ++ b).setWidth 40) = .error .reservedDiagCode) ∧
  (∀ (s : State) (f : Format) (w : Code) (r : Reject), fetchWord s = some (f, w) → decode f w = .error r →
    r ≠ .idle → step s = .refused (.reservedEncoding f))

/-! ### The pure functions -/

/-- R222: ENCODE_EVT and DECODE_EVT are mutually inverse between the legal bytes and the KeyEvents. -/
def Obligations.EventByteRoundTrip : Prop :=
  (∀ (k : BitVec 7) (e : Bool), k.toNat ≤ 48 → decodeEvt (encodeEvt k e) = some (k, e)) ∧
  (∀ (b : Byte) (k : BitVec 7) (e : Bool), decodeEvt b = some (k, e) → encodeEvt k e = b)

/-- R29: `bin2gray` and `gray2bin` bit by bit, and that they are mutually inverse on 0..255. -/
def Obligations.GrayCodeBitsAndInverse : Prop :=
  (∀ b : Ptr, bin2gray b = b ^^^ (b >>> 1)) ∧
  (∀ g : Ptr, (gray2bin g).getLsbD 7 = g.getLsbD 7 ∧
    ∀ i : Fin 7, (gray2bin g).getLsbD i = ((gray2bin g).getLsbD (i + 1) ^^ g.getLsbD i)) ∧
  (∀ v : Ptr, gray2bin (bin2gray v) = v ∧ bin2gray (gray2bin v) = v)

/-- R65: `WFULL` is the modulo-256 difference being 128, its gray form is the comparison with `0xC0`, and it is 0 after
reset. -/
def Obligations.FullFlagBinaryAndGray : Prop :=
  (∀ s : State, wfull s = true ↔ (s.scan.wbin.toNat + 256 - (gray2bin s.scan.wq2Rgray).toNat) % 256 = 128) ∧
  (∀ s : State, s.scan.wgray = bin2gray s.scan.wbin →
    (wfull s = true ↔ s.scan.wgray = s.scan.wq2Rgray ^^^ 0xC0#8)) ∧
  wfull State.reset = false

/-- R66, R67: `REMPTY` compares the gray pointers, the levels are the modulo-256 differences, and each flag is its
level's extreme. R68, R69: every field of `SCAN_STATUS` and of `TX_STATUS`, in every state. R249: the words after a step
that raises a fatal: `0x00000B` after INIT (at row 0, nothing lost or queued, as after reset),
`(lost, 0x80, row, 1, 01, 1, 1)` after OVERFLOW with `WLEVEL = 128`, and `BAD`, `FATAL_DECODE`, `HALTED` with the
FATAL_DECODE record after DECODE. -/
def Obligations.EmptyFlagAndLevels : Prop :=
  (∀ s : State, rempty s = true ↔ s.usb.rgray = s.usb.rq2Wgray) ∧
  (∀ s : State, (wlevel s).toNat = (s.scan.wbin.toNat + 256 - (gray2bin s.scan.wq2Rgray).toNat) % 256) ∧
  (∀ s : State, (rlevel s).toNat = ((gray2bin s.usb.rq2Wgray).toNat + 256 - s.usb.rbin.toNat) % 256) ∧
  (∀ s : State, wfull s = true ↔ (wlevel s).toNat = 128) ∧
  (∀ s : State, s.usb.rgray = bin2gray s.usb.rbin → (rempty s = true ↔ (rlevel s).toNat = 0)) ∧
  (∀ s : State,
    ((scanStatus s).getLsbD 0 = true ↔ s.scan.sphase ≠ .waitHs) ∧
    ((scanStatus s).getLsbD 1 = true ↔ s.scan.sphase = .halted) ∧
    (scanStatus s).extractLsb' 2 2 =
      (match s.scan.sfatal with | .none => 0#2 | .overflow => 1#2 | .init => 2#2) ∧
    (scanStatus s).getLsbD 4 = wfull s ∧
    (scanStatus s).extractLsb' 5 3 = s.scan.row ∧
    (scanStatus s).extractLsb' 8 8 = wlevel s ∧
    (scanStatus s).extractLsb' 16 8 = s.scan.lost) ∧
  (∀ s : State,
    ((txStatus s).getLsbD 0 = true ↔ s.usb.tphase = .halted) ∧
    (txStatus s).getLsbD 1 = s.usb.tfatal ∧
    (txStatus s).getLsbD 2 = rempty s ∧
    ((txStatus s).getLsbD 3 = true ↔ s.usb.tphase = .attempt) ∧
    (txStatus s).extractLsb' 4 4 = 0#4 ∧
    (txStatus s).extractLsb' 8 8 = rlevel s ∧
    (txStatus s).extractLsb' 16 8 = s.usb.bad) ∧
  (∀ (s t : State) (c : BitVec 8), nextEvent s = .edge (.scan true 0#32 c) → s.scan.sphase = .waitHs →
    s.scan.row = 0#3 → s.scan.lost = 0#8 → step s = .next t → wlevel t = 0#8 → scanStatus t = 0x00000B#24) ∧
  (∀ (s t : State) (v : Bool) (d : BitVec 32) (c : BitVec 8), nextEvent s = .edge (.scan v d c) →
    s.scan.sphase = .sample → step s = .next t → t.scan.sphase = .halted → wlevel t = 128#8 →
    scanStatus t = t.scan.lost ++ 0x80#8 ++ s.scan.row ++ 1#1 ++ 0b01#2 ++ 1#1 ++ 1#1) ∧
  (∀ (s : State) (a b c : Bool) (x : Byte), nextEvent s = .edge (.usb a b c) → s.usb.tphase = .peek →
    peekHead s = some x → decodeEvt x = none →
    ∃ t, step s = .next t ∧ diagWord t = 0b110#3 ++ x ∧
      txStatus t = x ++ rlevel t ++ 0#4 ++ 0#1 ++ BitVec.ofBool (rempty t) ++ 1#1 ++ 1#1)

/-- R14, R21, R125 (h): the settle length is exact in its 16 bits and lies in 3..4297 for every nonzero F. -/
def Obligations.SettleLengthIsExact : Prop :=
  ∀ f : BitVec 32, f ≠ 0#32 →
    (settleLoad f).toNat = (f.toNat + 999999) / 1000000 + 2 ∧ 3 ≤ (settleLoad f).toNat ∧ (settleLoad f).toNat ≤ 4297

/-- R114, R115: the four bytes of a NOTE_ON and of a NOTE_OFF packet, over the open `CH` and `KEYMAP`. -/
def Obligations.PacketBytes : Prop :=
  ∀ k : BitVec 7,
    encodePkt k true =
      ({ p0 := 0x09#8, p1 := 0x90#8 ||| Config.ch.setWidth 8, p2 := (keymapLookup k).setWidth 8, p3 := 0x7F#8 }
        : Packet) ∧
    encodePkt k false =
      ({ p0 := 0x08#8, p1 := 0x80#8 ||| Config.ch.setWidth 8, p2 := (keymapLookup k).setWidth 8, p3 := 0x7F#8 }
        : Packet)

/-- R225: two KeyEvents with one packet are one KeyEvent. -/
def Obligations.DistinctEventsHaveDistinctPackets : Prop :=
  ∀ (k1 k2 : BitVec 7) (e1 e2 : Bool), encodePkt k1 e1 = encodePkt k2 e2 → k1 = k2 ∧ e1 = e2

/-- R116: in a good state, the packet the block presents is a NOTE_ON or a NOTE_OFF word of USBMIDI4 on channel
`CH`, the note of a legal key; no other pattern is presented. -/
def Obligations.PresentedPacketIsANote : Prop :=
  ∀ s : State, BlockInv s → txReq s = true → ∃ k : BitVec 7, k.toNat ≤ 48 ∧
    (decode .usbmidi4 ((packetValue (txLanes s)).setWidth 40) = .ok (.noteOn Config.ch (keymapLookup k)) ∨
     decode .usbmidi4 ((packetValue (txLanes s)).setWidth 40) = .ok (.noteOff Config.ch (keymapLookup k)))

/-! ### The operations: result, completion and frame -/

/-- R163, R242: WAIT_HS waits while `hs_valid = 0`, halts with INIT on `F = 0`, and otherwise takes the Handoff;
nothing else changes. `HS_DONE` is 1 once WAIT_HS is left. -/
def Obligations.WaitHsTakesTheHandoff : Prop :=
  ∀ s : State, exec .waitHs s = .next (
    if s.pins.hsValid = false then s
    else if s.pins.hsData.toNat = 0 then s.withScan (haltedScan .init s.scan)
    else s.withScan { s.scan with
      settle := BitVec.ofNat 16 ((s.pins.hsData.toNat + 999999) / 1000000 + 2), row := 0#3, sphase := .strobe }) ∧
    ∀ t, exec .waitHs s = .next t → s.pins.hsValid = true → (scanStatus t).getLsbD 0 = true

/-- R164: STROBE drives exactly the line of `row` low, starts the row at column 0 and loads the settle count; nothing
else changes. -/
def Obligations.StrobeDrivesOneRow : Prop :=
  ∀ s : State, exec .strobe s = .next (s.withScan { s.scan with
      rowN := ~~~(1#7 <<< s.scan.row.toNat), col := 0#3, cnt := s.scan.settle, sphase := .settle }) ∧
    ∀ t, exec .strobe s = .next t → ∀ r : Fin 7, t.scan.rowN.getLsbD r = false ↔ r.val = s.scan.row.toNat

/-- R165: SETTLE counts down, and at a count of 1 (or 0) goes to SAMPLE; nothing else changes. -/
def Obligations.SettleCountsDown : Prop :=
  ∀ s : State, exec .settle s = .next (
    if s.scan.cnt.toNat ≤ 1 then s.withScan { s.scan with sphase := .sample }
    else s.withScan { s.scan with cnt := s.scan.cnt - 1#16 })

/-- R166, R241: SAMPLE in full. A position with no key, or a sample that equals its snapshot bit, only advances the
column. An edge updates the snapshot bit and forms the event byte; with `WFULL = 0` the byte is pushed and the column
advances; with `WFULL = 1` it is recorded in `lost` and the Scanner halts with OVERFLOW. Nothing else changes. -/
def Obligations.SampleTakesTheEdge : Prop :=
  ∀ s : State,
    let raw := s.scan.row.toNat * 8 + s.scan.col.toNat
    let k : BitVec 7 := BitVec.ofNat 7 (raw - 4)
    let pressed := !s.pins.colN.getLsbD s.scan.col.toNat
    let b : Byte := BitVec.ofBool pressed ++ k
    let snap := setSnapBit s.scan.snap k pressed
    exec .sample s = .next (
      if raw < 4 ∨ 52 < raw ∨ pressed = s.scan.snap.getLsbD k.toNat then s.withScan (advanced s.scan)
      else if wfull s = true then
        (s.withScan (haltedScan .overflow { s.scan with snap := snap, lost := b })).withObs { s.obs with evt := some b }
      else ((s.withMem (s.mem.write (s.scan.wbin.toNat % 128) b)).withScan
        (advanced { s.scan with
          snap := snap, wbin := s.scan.wbin + 1#8, wgray := bin2gray (s.scan.wbin + 1#8) })).withObs
        { s.obs with evt := some b, push := some b }) ∧
    (raw < 4 ∨ 52 < raw ∨
      (snap.getLsbD k.toNat = pressed ∧ ∀ j, j ≠ k.toNat → snap.getLsbD j = s.scan.snap.getLsbD j))

/-- R166, R181: the bytes of the storage a SAMPLE or a PUSH leaves alone. Every slot other than `wbin[6:0]` reads as
before; where nothing is pushed every slot does; and the pushed byte reads back from its slot. -/
def Obligations.PushingOperationsStoreOneSlot : Prop :=
  ∀ (i : Instr) (s t : State), (i = .sample ∨ ∃ d, i = .push d) → exec i s = .next t →
    (∀ a, a ≠ s.scan.wbin.toNat % 128 → readSlot t a = readSlot s a) ∧
    (t.scan.wbin = s.scan.wbin → ∀ a, readSlot t a = readSlot s a) ∧
    (∀ b, t.scan.wbin ≠ s.scan.wbin → t.obs.push = some b → readSlot t (s.scan.wbin.toNat % 128) = b)

/-- R167: RELEASE idles every row and moves to the next row, 0 after 6; nothing else changes. -/
def Obligations.ReleaseMovesToTheNextRow : Prop :=
  ∀ s : State, exec .release s = .next (s.withScan { s.scan with
    rowN := 0b1111111#7, row := if s.scan.row.toNat = 6 then 0#3 else s.scan.row + 1#3, sphase := .strobe })

/-- R168: in HALTED no register of the Scanner changes; the step only shifts the synchroniser. -/
def Obligations.HaltedScannerOnlyShifts : Prop :=
  (∀ s : State, exec .halted s = .next s) ∧
  ∀ (s t : State) (v : Bool) (d : BitVec 32) (c : BitVec 8), nextEvent s = .edge (.scan v d c) →
    s.scan.sphase = .halted → step s = .next t →
    t.scan = { s.scan with wq2Rgray := s.scan.wq1Rgray, wq1Rgray := s.usb.rgray } ∧ t.mem = s.mem ∧ t.usb = s.usb

/-- R201: SERVICE goes to PEEK when `svc_done = 1` and stays otherwise; nothing else changes. -/
def Obligations.ServiceWaitsForTheTransport : Prop :=
  ∀ s : State, exec .service s = .next (
    if s.pins.svcDone = true then s.withUsb { s.usb with tphase := .peek } else s)

/-- R202, R243: PEEK in full. An empty queue ends the iteration. A head byte with K in 49..127 is recorded in `bad`
and in a FATAL_DECODE record, and the Transmitter halts. A legal head byte gives its packet, is held, and is attempted.
Nothing else changes; the storage and the pointers never do. -/
def Obligations.PeekDecodesTheHead : Prop :=
  ∀ s : State,
    let b := readSlot s (s.usb.rbin.toNat % 128)
    let k : BitVec 7 := b.extractLsb' 0 7
    let p := encodePkt k (b.getLsbD 7)
    exec .peek s = .next (
      if s.usb.rgray = s.usb.rq2Wgray then
        (s.withObs { s.obs with head := some none }).withUsb { s.usb with tphase := .service }
      else if 49 ≤ k.toNat then
        (s.withObs { s.obs with head := some (some b) }).withUsb { s.usb with
          bad := b, diagValid := true, diagCode := .fatalDecode, diagByte := b, tfatal := true, tphase := .halted }
      else
        (s.withObs { s.obs with head := some (some b), pkt := some p }).withUsb { s.usb with
          pkt0 := p.p0, pkt1 := p.p1, pkt2 := p.p2, pkt3 := p.p3, hold := b, tphase := .attempt })

/-- R203, R248: ATTEMPT in full. With no answer it waits. Success pops the head and emits SENT; failure emits
SEND_FAIL and pops nothing; both return to SERVICE. Nothing else changes; the storage never does. -/
def Obligations.AttemptPopsOnlyOnSuccess : Prop :=
  ∀ s : State, exec .attempt s = .next (
    if s.pins.txDone = false then s
    else if s.pins.txOk = true then
      (s.withObs { s.obs with delivered := some (txLanes s), pop := true }).withUsb { s.usb with
        rbin := s.usb.rbin + 1#8, rgray := bin2gray (s.usb.rbin + 1#8),
        diagValid := true, diagCode := .sent, diagByte := s.usb.hold, tphase := .service }
    else s.withUsb { s.usb with
        diagValid := true, diagCode := .sendFail, diagByte := s.usb.hold, tphase := .service })

/-- R204: in the Transmitter's HALTED only `diag_valid` falls and the synchroniser shifts; `svc_req` and `tx_req` are
0. -/
def Obligations.HaltedTransmitterOnlyShifts : Prop :=
  (∀ s : State, exec .haltedTx s = .next s) ∧
  ∀ (s t : State) (a b c : Bool), nextEvent s = .edge (.usb a b c) → s.usb.tphase = .halted → step s = .next t →
    t.usb = { s.usb with diagValid := false, rq2Wgray := s.usb.rq1Wgray, rq1Wgray := s.scan.wgray } ∧
      t.scan = s.scan ∧ t.mem = s.mem ∧ svcReq t = false ∧ txReq t = false

/-- R181, R182: PUSH on success writes the slot and advances both copies of the pointer; on full nothing in the queue
changes. Nothing else changes. (That the WPORT operation is read as `push()` of R182, so that with `WFULL = 1` it changes
nothing, where R181 gives PUSH the precondition `WFULL = 0`, is the model's choice: notes/assumptions/8.md.) -/
def Obligations.PushAppendsOrFindsFull : Prop :=
  ∀ (b : Byte) (s : State), exec (.push b) s = .next (
    if wfull s = true then s
    else ((s.withMem (s.mem.write (s.scan.wbin.toNat % 128) b)).withScan
      { s.scan with wbin := s.scan.wbin + 1#8, wgray := bin2gray (s.scan.wbin + 1#8) }).withObs
      { s.obs with push := some b })

/-- R185: POP advances both copies of the read pointer modulo 256; the storage and all else is unchanged. (It does so
from every state, also where R185's precondition fails: the model's choice, notes/assumptions/7.md.) -/
def Obligations.PopAdvancesTheReadPointer : Prop :=
  ∀ s : State, exec .pop s = .next ((s.withUsb
    { s.usb with rbin := s.usb.rbin + 1#8, rgray := bin2gray (s.usb.rbin + 1#8) }).withObs { s.obs with pop := true })

/-- R183, R90: the queue's PEEK returns none or the head byte and changes no register and no slot, so a repeated PEEK
returns the same. -/
def Obligations.QueuePeekHasNoSideEffect : Prop :=
  ∀ s : State, ∃ t, exec .peekQ s = .next t ∧ SameBlock s t ∧
    t.obs.head = some (if s.usb.rgray = s.usb.rq2Wgray then none else some (readSlot s (s.usb.rbin.toNat % 128))) ∧
    ∃ u, exec .peekQ t = .next u ∧ SameBlock t u ∧ u.obs.head = t.obs.head

/-- R220, R226: EVT_PRESS and EVT_RELEASE form the event byte `1kkkkkkk` or `0kkkkkkk` of a legal key and write no
register; on K in 49..127 they are refused by name (the refusal, and that the byte formed is shown in `obs`, are the
model's choices: notes/assumptions/18.md, 5.md). -/
def Obligations.EventBytesAreFormed : Prop :=
  ∀ (k : BitVec 7) (s : State),
    (k.toNat ≤ 48 →
      exec (.evtPress k) s = .next (s.withObs { s.obs with evt := some (1#1 ++ k) }) ∧
      exec (.evtRelease k) s = .next (s.withObs { s.obs with evt := some (0#1 ++ k) })) ∧
    (49 ≤ k.toNat →
      exec (.evtPress k) s = .refused .reservedKeyIndex ∧ exec (.evtRelease k) s = .refused .reservedKeyIndex)

/-- R114, R115, R226: NOTE_ON and NOTE_OFF form the packet of their word, byte for byte, and write no register. On
channel `CH` with a key's note it is that key's packet. (That any channel is accepted, and that the packet formed is
shown in `obs`, are the model's choices: notes/assumptions/6.md, 5.md.) -/
def Obligations.NotePacketsAreFormed : Prop :=
  (∀ (c : BitVec 4) (n : BitVec 7) (s : State),
    exec (.noteOn c n) s = .next (s.withObs { s.obs with
      pkt := some { p0 := 0x09#8, p1 := 0x9#4 ++ c, p2 := 0#1 ++ n, p3 := 0x7F#8 } }) ∧
    exec (.noteOff c n) s = .next (s.withObs { s.obs with
      pkt := some { p0 := 0x08#8, p1 := 0x8#4 ++ c, p2 := 0#1 ++ n, p3 := 0x7F#8 } })) ∧
  ∀ (k : BitVec 7) (s : State),
    exec (.noteOn Config.ch (keymapLookup k)) s = .next (s.withObs { s.obs with pkt := some (encodePkt k true) }) ∧
    exec (.noteOff Config.ch (keymapLookup k)) s = .next (s.withObs { s.obs with pkt := some (encodePkt k false) })

/-- R144, R153, R163: HANDOFF in WAIT_HS takes a nonzero F and halts on 0; in every other phase `hs_valid` and
`hs_data` are ignored: the registers and the storage are those the phase's own operation gives. (That the operation
HANDOFF is the scan step with that input driven, so that outside WAIT_HS it does the phase's own operation, is the
model's reading of the statement `HS f` of R129: notes/assumptions/20.md.) -/
def Obligations.HandoffIsReadOnlyInWaitHs : Prop :=
  ∀ (f : BitVec 32) (s : State), ∃ t, exec (.handoff f) s = .next t ∧
    (s.scan.sphase = .waitHs → t.mem = s.mem ∧ t.usb = s.usb ∧ t.scan =
      (if f.toNat = 0 then haltedScan .init s.scan
       else { s.scan with
         settle := BitVec.ofNat 16 ((f.toNat + 999999) / 1000000 + 2), row := 0#3, sphase := .strobe })) ∧
    (s.scan.sphase ≠ .waitHs → ∃ u, exec (scanInstr s.scan.sphase) s = .next u ∧ SameBlock t u)

/-- R145, R153, R201: SVC_DONE in SERVICE goes to PEEK; in ATTEMPT and HALTED it is ignored and nothing changes; in PEEK
it is ignored and PEEK does its own work. (That the operation SVC_DONE is the USB step with `svc_done = 1` and
`tx_done = 0`, as ATTEMPT unchanged and PEEK run need, is the model's reading of the statement `SVC` of R129:
notes/assumptions/20.md.) -/
def Obligations.ServiceDoneIsReadOnlyInService : Prop :=
  ∀ s : State, ∃ t, exec .svcDone s = .next t ∧
    (s.usb.tphase = .service → t.scan = s.scan ∧ t.mem = s.mem ∧ t.usb = { s.usb with tphase := .peek }) ∧
    (s.usb.tphase = .attempt ∨ s.usb.tphase = .halted → SameBlock s t) ∧
    (s.usb.tphase = .peek → ∃ u, exec .peek s = .next u ∧ SameBlock t u)

/-- R146, R153, R203, R248: in ATTEMPT, TX_DONE_OK pops the head with a SENT record and TX_DONE_FAIL pops nothing with a
SEND_FAIL record, both back to SERVICE; in SERVICE and HALTED they are ignored and nothing changes; in PEEK they are
ignored and PEEK does its own work. (That these operations are the USB step with the answer driven and `svc_done = 0`,
as SERVICE unchanged and PEEK run need, is the model's reading of the statements `TX OK` and `TX FAIL` of R129:
notes/assumptions/20.md.) -/
def Obligations.SendAnswersAreReadOnlyInAttempt : Prop :=
  ∀ s : State, ∃ t u, exec .txDoneOk s = .next t ∧ exec .txDoneFail s = .next u ∧
    (s.usb.tphase = .attempt →
      (t.scan = s.scan ∧ t.mem = s.mem ∧ t.usb = { s.usb with
        rbin := s.usb.rbin + 1#8, rgray := bin2gray (s.usb.rbin + 1#8),
        diagValid := true, diagCode := .sent, diagByte := s.usb.hold, tphase := .service }) ∧
      (u.scan = s.scan ∧ u.mem = s.mem ∧ u.usb = { s.usb with
        diagValid := true, diagCode := .sendFail, diagByte := s.usb.hold, tphase := .service })) ∧
    (s.usb.tphase = .service ∨ s.usb.tphase = .halted → SameBlock s t ∧ SameBlock s u) ∧
    (s.usb.tphase = .peek → ∃ v, exec .peek s = .next v ∧ SameBlock t v ∧ SameBlock u v)

/-- R122, R64: each diagnostic record sets `diag_valid`, its code and its byte, and changes nothing else; the word on
the port is the record's encoding. (That the operations DIAG_SENT, DIAG_SEND_FAIL and DIAG_FATAL_DECODE are the write of
these three output registers and nothing else is the model's choice: notes/assumptions/20.md.) -/
def Obligations.DiagnosticRecordsSetThePort : Prop :=
  ∀ (b : Byte) (s : State),
    exec (.diagSent b) s =
      .next (s.withUsb { s.usb with diagValid := true, diagCode := .sent, diagByte := b }) ∧
    exec (.diagSendFail b) s =
      .next (s.withUsb { s.usb with diagValid := true, diagCode := .sendFail, diagByte := b }) ∧
    exec (.diagFatalDecode b) s =
      .next (s.withUsb { s.usb with diagValid := true, diagCode := .fatalDecode, diagByte := b }) ∧
    ∀ i ∈ [Instr.diagSent b, .diagSendFail b, .diagFatalDecode b], ∀ t, exec i s = .next t →
      (diagWord t).setWidth 40 = encode i

/-- R244: halt entry. A Scanner fatal writes its code, releases every row and halts the Scanner; the Transmitter's
writes its flag and halts the Transmitter; nothing else is written. -/
def Obligations.HaltEntryWrites : Prop :=
  ∀ s : State,
    raiseFatal .overflow s = s.withScan { s.scan with sfatal := .overflow, rowN := 0b1111111#7, sphase := .halted } ∧
    raiseFatal .init s = s.withScan { s.scan with sfatal := .init, rowN := 0b1111111#7, sphase := .halted } ∧
    raiseFatal .decode s = s.withUsb { s.usb with tfatal := true, tphase := .halted }

/-! ### Steps -/

/-- A step runs the decoded operation: where the word the event selects decodes to `i`, the step is `exec i` on the
state with the event taken, after what the domain's edge writes first (a USB edge clears `diag_valid`), and with what
it adds (the synchroniser shift from the values before the edge). The clear and the shift stand in the definitions
`beforeStep` and `afterStep`, not in this text; the statements of the two clock edges below write them out. (For a port
word, which clock it steps, and so its shift and its clear, is the model's choice: notes/assumptions/11.md; so are the
levels of the inputs it does not drive, which `takeEvent` keeps: notes/assumptions/21.md.) -/
def Obligations.StepRunsTheDecodedOperation : Prop :=
  ∀ (s : State) (f : Format) (w : Code) (i : Instr), fetchWord s = some (f, w) → decode f w = .ok i →
    step s = mapNext (afterStep (domainOf f) (takeEvent s)) (exec i (beforeStep (domainOf f) (takeEvent s)))

/-- R160: a `scan_clk` edge performs the operation of `sphase` and the shift of `SyncR2W`, both from the values before
the edge. -/
def Obligations.ScanEdgeRunsThePhase : Prop :=
  ∀ (s t : State) (v : Bool) (d : BitVec 32) (c : BitVec 8), nextEvent s = .edge (.scan v d c) →
    exec (scanInstr s.scan.sphase) (takeEvent s) = .next t →
    step s = .next (t.withScan { t.scan with wq2Rgray := s.scan.wq1Rgray, wq1Rgray := s.usb.rgray })

/-- R200: a `usb_clk` edge clears `diag_valid`, performs the operation of `tphase`, which may set it again, and the
shift of `SyncW2R`, all from the values before the edge. -/
def Obligations.UsbEdgeRunsThePhase : Prop :=
  ∀ (s t : State) (a b c : Bool), nextEvent s = .edge (.usb a b c) →
    exec (txInstr s.usb.tphase) ((takeEvent s).withUsb { s.usb with diagValid := false }) = .next t →
    step s = .next (t.withUsb { t.usb with rq2Wgray := s.usb.rq1Wgray, rq1Wgray := s.scan.wgray })

/-- R271, R272: every register, flag, status word and request output at reset; no slot of the storage has a value. -/
def Obligations.ResetValues : Prop :=
  let s := State.reset
  s.scan.sphase = .waitHs ∧ s.scan.row = 0#3 ∧ s.scan.col = 0#3 ∧ s.scan.cnt = 0#16 ∧ s.scan.settle = 0#16 ∧
  s.scan.snap = 0#49 ∧ s.scan.sfatal = .none ∧ s.scan.lost = 0#8 ∧ s.scan.rowN = 0b1111111#7 ∧
  s.scan.wbin = 0#8 ∧ s.scan.wgray = 0#8 ∧ s.scan.wq1Rgray = 0#8 ∧ s.scan.wq2Rgray = 0#8 ∧
  (∀ i, s.mem.read i = none) ∧
  s.usb.tphase = .service ∧ s.usb.rbin = 0#8 ∧ s.usb.rgray = 0#8 ∧ s.usb.rq1Wgray = 0#8 ∧ s.usb.rq2Wgray = 0#8 ∧
  s.usb.hold = 0#8 ∧ s.usb.pkt0 = 0#8 ∧ s.usb.pkt1 = 0#8 ∧ s.usb.pkt2 = 0#8 ∧ s.usb.pkt3 = 0#8 ∧
  s.usb.tfatal = false ∧ s.usb.bad = 0#8 ∧ s.usb.diagValid = false ∧ s.usb.diagCode = .sent ∧
  s.usb.diagByte = 0#8 ∧
  wfull s = false ∧ rempty s = true ∧ wlevel s = 0#8 ∧ rlevel s = 0#8 ∧
  scanStatus s = 0x000000#24 ∧ txStatus s = 0x000004#24 ∧ svcReq s = true ∧ txReq s = false

/-- R154, R270: a step with `rst_n = 0` puts both domains at their reset values from any state, halted or not. -/
def Obligations.ResetRestoresBothDomains : Prop :=
  ∀ s : State, nextEvent s = .edge .reset →
    ∃ t, step s = .next t ∧ SameBlock t State.reset

/-- R195: no scan-domain step writes a register of the USB domain, and no USB-domain step writes a register of the
scan domain or a slot of the storage, at a clock edge or at a port of that domain. R226: a data encoding writes none.
(Which clock a port steps, and that EVT8 and USBMIDI4 step none, is the model's choice: notes/assumptions/11.md.) -/
def Obligations.DomainsWriteOnlyTheirOwn : Prop :=
  ∀ s t : State, step s = .next t →
    (∀ v d c, nextEvent s = .edge (.scan v d c) → t.usb = s.usb) ∧
    (∀ a b c, nextEvent s = .edge (.usb a b c) → t.scan = s.scan ∧ t.mem = s.mem) ∧
    (∀ f w, nextEvent s = .port f w →
      (domainOf f = .scan → t.usb = s.usb) ∧
      (domainOf f = .usb → t.scan = s.scan ∧ t.mem = s.mem) ∧
      (domainOf f = .comb → SameBlock s t))

/-- R153: an input is read only in the phase whose rule names it. Outside WAIT_HS the Handoff inputs, outside SAMPLE the
columns, outside SERVICE `svc_done`, and outside ATTEMPT `tx_done` and `tx_ok` make no difference to any register or
slot. -/
def Obligations.InputsAreIgnoredOutsideTheirPhase : Prop :=
  ∀ s : State,
    (∀ v v' d d' c, s.scan.sphase ≠ .waitHs → ∃ t u, stepEdge (.scan v d c) s = .next t ∧
      stepEdge (.scan v' d' c) s = .next u ∧ SameBlock t u) ∧
    (∀ v d c c', s.scan.sphase ≠ .sample → ∃ t u, stepEdge (.scan v d c) s = .next t ∧
      stepEdge (.scan v d c') s = .next u ∧ SameBlock t u) ∧
    (∀ a a' b c, s.usb.tphase ≠ .service → ∃ t u, stepEdge (.usb a b c) s = .next t ∧
      stepEdge (.usb a' b c) s = .next u ∧ SameBlock t u) ∧
    (∀ a b b' c c', s.usb.tphase ≠ .attempt → ∃ t u, stepEdge (.usb a b c) s = .next t ∧
      stepEdge (.usb a b' c') s = .next u ∧ SameBlock t u)

/-- R205: after a USB step `diag_valid` is 1 exactly when the step emitted a record (an answered attempt, or a PEEK of a
reserved byte), and without a record the code and byte keep their values. -/
def Obligations.DiagnosticRecordTiming : Prop :=
  ∀ (s t : State) (a b c : Bool), nextEvent s = .edge (.usb a b c) → step s = .next t →
    (t.usb.diagValid = true ↔
      ((s.usb.tphase = .attempt ∧ b = true) ∨
       (s.usb.tphase = .peek ∧ ∃ x, peekHead s = some x ∧ decodeEvt x = none))) ∧
    (t.usb.diagValid = false → t.usb.diagCode = s.usb.diagCode ∧ t.usb.diagByte = s.usb.diagByte)

/-- R247, R260: no clock edge leaves a halt or rewrites a fatal code: a halted agent stays halted with its code, its
recorded byte and its queue pointer. -/
def Obligations.NoClockEdgeLeavesAHalt : Prop :=
  ∀ (s t : State) (e : Edge), edgeIsClock e = true → nextEvent s = .edge e → step s = .next t →
    (s.scan.sphase = .halted → t.scan.sphase = .halted ∧ t.scan.sfatal = s.scan.sfatal ∧ t.scan.lost = s.scan.lost ∧
      t.scan.wbin = s.scan.wbin ∧ t.scan.snap = s.scan.snap) ∧
    (s.usb.tphase = .halted → t.usb.tphase = .halted ∧ t.usb.tfatal = s.usb.tfatal ∧ t.usb.bad = s.usb.bad ∧
      t.usb.rbin = s.usb.rbin)

/-- R155: the composed block has no end of run: every step of it answers a next state, and it stays the composed
block. -/
def Obligations.ComposedBlockNeverStops : Prop :=
  ∀ s : State, Composed s → ∃ t, step s = .next t ∧ Composed t

/-! ### Invariants -/

/-- The good-state invariant holds at reset. -/
def Obligations.GoodStateAtReset : Prop := BlockInv State.reset

/-- Every step keeps the good-state invariant: the pointer order (R189), the storage (R190, R191), the Transmitter
(R207, R253) and the Scanner (R44, R165, R175, R244). -/
def Obligations.EveryStepKeepsAGoodState : Prop :=
  ∀ s t : State, BlockInv s → step s = .next t → BlockInv t

/-- R189: in a good state `0 <= RLEVEL <= TLEVEL <= WLEVEL <= 128`. -/
def Obligations.LevelsAreOrdered : Prop :=
  ∀ s : State, BlockInv s →
    (rlevel s).toNat ≤ (tlevel s).toNat ∧ (tlevel s).toNat ≤ (wlevel s).toNat ∧ (wlevel s).toNat ≤ 128

/-- R192: with 128 unconsumed bytes the write side sees a full queue, and an edge found then halts the Scanner with
OVERFLOW, with nothing written, dropped silently or overwritten. -/
def Obligations.CapacityBoundary : Prop :=
  ∀ s : State, BlockInv s → (tlevel s).toNat = 128 →
    (wlevel s).toNat = 128 ∧ wfull s = true ∧
    ∀ k, classify s.scan.row s.scan.col = .key k →
      (!s.pins.colN.getLsbD s.scan.col.toNat) ≠ s.scan.snap.getLsbD k.toNat →
      ∃ t, exec .sample s = .next t ∧ t.scan.sphase = .halted ∧ t.scan.sfatal = .overflow ∧
        t.scan.lost = encodeEvt k (!s.pins.colN.getLsbD s.scan.col.toNat) ∧ t.mem = s.mem ∧
        t.scan.wbin = s.scan.wbin ∧ t.scan.wgray = s.scan.wgray

/-- R190: from a good state no step but reset overwrites an unconsumed byte, and the queue never holds more than
128. -/
def Obligations.NoUnconsumedByteIsOverwritten : Prop :=
  ∀ s t : State, BlockInv s → nextEvent s ≠ .edge .reset → step s = .next t →
    (tlevel t).toNat ≤ 128 ∧
    ∀ j, j < (tlevel s).toNat →
      readSlot t (slotOf (s.usb.rbin + BitVec.ofNat 8 j)) = readSlot s (slotOf (s.usb.rbin + BitVec.ofNat 8 j))

/-- R91: the queue is a first-in first-out store. From a good state, every step but reset makes the unconsumed bytes the
old ones, less the oldest if the step popped, followed by the byte the step pushed, if it pushed one. -/
def Obligations.QueueIsFirstInFirstOut : Prop :=
  ∀ s t : State, BlockInv s → nextEvent s ≠ .edge .reset → step s = .next t →
    queueBytes t = (if t.obs.pop then (queueBytes s).tail else queueBytes s) ++ t.obs.push.toList

/-- R186, R191, R211: from a good state, a step that delivers a packet or pops delivers the packet of the OLDEST
unconsumed byte and pops exactly that byte (the read pointer advances by one and the other unconsumed bytes remain, in
order), with its SENT record; a step but reset that does not pop leaves the read pointer. -/
def Obligations.DeliveryIsOfTheOldestByte : Prop :=
  ∀ s t : State, BlockInv s → nextEvent s ≠ .edge .reset → step s = .next t →
    (t.obs.pop = true ↔ t.obs.delivered ≠ none) ∧
    (t.obs.pop = false → t.usb.rbin = s.usb.rbin) ∧
    (t.obs.pop = true → ∃ b rest k e, queueBytes s = b :: rest ∧ queueBytes t = rest ∧
      t.usb.rbin = s.usb.rbin + 1#8 ∧ decodeEvt b = some (k, e) ∧
      t.obs.delivered = some (encodePkt k e) ∧ t.usb.diagValid = true ∧ t.usb.diagCode = .sent ∧ t.usb.diagByte = b)

/-- R253: no run of the composed block from reset, whatever edges, inputs and resets it is made of, raises DECODE. -/
def Obligations.DecodeFatalIsUnreachable : Prop :=
  ∀ (es : List Edge) (n : Nat) (s : State),
    Sys2Proof.core.run n ({ State.reset with events := es.map Event.edge } : State) = .next s →
    s.usb.tfatal = false ∧ s.usb.tphase ≠ .halted

/-- R175: in a good state the line of `row` is low exactly in SETTLE, SAMPLE and RELEASE, every other line is high, and
in WAIT_HS, STROBE and HALTED every line is high. -/
def Obligations.AtMostOneRowIsDriven : Prop :=
  ∀ s : State, BlockInv s → ∀ r : Fin 7, s.scan.rowN.getLsbD r = false ↔
    ((s.scan.sphase = .settle ∨ s.scan.sphase = .sample ∨ s.scan.sphase = .release) ∧ r.val = s.scan.row.toNat)

/-- R193: the model admits a run with an early fatal, as program P6a is: a run of clock edges from reset reaches a (good)
state in which `WFULL = 1` with 127 bytes unconsumed, and the next edge's sample halts the Scanner with OVERFLOW, still
with 127 unconsumed. -/
def Obligations.EarlyFullIsPossible : Prop :=
  ∃ (es : List Edge) (e : Edge) (t : State), (∀ x ∈ es, edgeIsClock x = true) ∧ edgeIsScan e = true ∧
    let s := lastState es State.reset
    BlockInv s ∧ (tlevel s).toNat = 127 ∧ wfull s = true ∧ s.scan.sphase = .sample ∧
      stepEdge e s = .next t ∧ t.scan.sphase = .halted ∧ t.scan.sfatal = .overflow ∧ (tlevel t).toNat = 127

/-! ### Runs -/

/-- R170: edge-only emission. Along any run of clock edges at whose end the Scanner is not halted, the bytes pushed for a
key are exactly the changes in its sequence of samples, the first one compared with the snapshot at the start. -/
def Obligations.EdgeOnlyEmission : Prop :=
  ∀ (k : BitVec 7) (es : List Edge) (s : State), (∀ e ∈ es, edgeIsClock e = true) →
    (lastState es s).scan.sphase ≠ .halted →
    keyPushes k es s = changes (snapBit s.scan.snap k) (keySamples k es s)

/-- R172: along such a run the bytes of a key alternate, starting from the opposite of its snapshot bit, and the
snapshot bit at the end is the edge of the last byte pushed for the key, or its old value if there was none. -/
def Obligations.EdgesAlternatePerKey : Prop :=
  ∀ (k : BitVec 7) (es : List Edge) (s : State), (∀ e ∈ es, edgeIsClock e = true) →
    (lastState es s).scan.sphase ≠ .halted →
    changes (snapBit s.scan.snap k) (keyPushes k es s) = keyPushes k es s ∧
    snapBit (lastState es s).scan.snap k = (keyPushes k es s).getLastD (snapBit s.scan.snap k)

/-- R173: along clock edges of both domains (a scan cycle with its USB steps among them) whose every sample of a key
equals its snapshot bit, nothing is pushed and `snap`, `wbin`, `wgray` and the storage are unchanged. -/
def Obligations.UnchangedScanPushesNothing : Prop :=
  ∀ (es : List Edge) (s : State), (∀ e ∈ es, edgeIsClock e = true) →
    (∀ k, ∀ x ∈ keySamples k es s, x = snapBit s.scan.snap k) →
    (lastState es s).scan.snap = s.scan.snap ∧ (lastState es s).scan.wbin = s.scan.wbin ∧
    (lastState es s).scan.wgray = s.scan.wgray ∧ (lastState es s).mem = s.mem ∧
    ∀ t ∈ trace es s, t.obs.push = none

/-- R165, R280: a settle wait lasts exactly its count of scan steps, however many USB steps fall between them. From SETTLE
with `cnt = n + 1`, the Scanner is in SETTLE after every edge of a run with n scan edges, and the next scan edge takes it
to SAMPLE; over all of it nothing of the scan domain changed but the count and the view of the read pointer, and nothing
of the storage; without USB steps the USB domain is unchanged too. -/
def Obligations.SettleWaitIsExact : Prop :=
  ∀ (es : List Edge) (e : Edge) (s : State), (∀ x ∈ es, edgeIsClock x = true) → edgeIsScan e = true →
    s.scan.sphase = .settle → s.scan.cnt.toNat = scanSteps es + 1 →
    let t := lastState (es ++ [e]) s
    (∀ u ∈ trace es s, u.scan.sphase = .settle) ∧
    t.scan = { s.scan with
      sphase := .sample, cnt := 1#16, wq1Rgray := t.scan.wq1Rgray, wq2Rgray := t.scan.wq2Rgray } ∧
    t.mem = s.mem ∧ ((∀ x ∈ es, edgeIsScan x = true) → t.usb = s.usb)

/-- R169, R289: one scan cycle, with any USB steps between its scan steps. From STROBE of row 0, after clock edges with
`7 * (2 + 8 * (settle + 1))` scan edges among them in which the Scanner did not halt, it has sampled the 56 positions in
increasing raw index, once each, and is at STROBE of row 0 again. -/
def Obligations.ScanCycleSamplesEveryPosition : Prop :=
  ∀ (es : List Edge) (s : State), (∀ e ∈ es, edgeIsClock e = true) →
    s.scan.sphase = .strobe → s.scan.row = 0#3 → 1 ≤ s.scan.settle.toNat →
    scanSteps es = 7 * (2 + 8 * (s.scan.settle.toNat + 1)) → (lastState es s).scan.sphase ≠ .halted →
    sampledRaws es s = List.range 56 ∧ (lastState es s).scan.sphase = .strobe ∧ (lastState es s).scan.row = 0#3 ∧
      (lastState es s).scan.settle = s.scan.settle

/-- R187, R188, R194: a pointer crosses in exactly two steps of the receiving domain. With any scan edges between two
USB steps, the read side's view after the second is the write pointer as it stood at the first, and the write side's
view crosses alike. -/
def Obligations.PointersCrossInTwoSteps : Prop :=
  (∀ (e1 e2 : Edge) (es : List Edge) (s : State), edgeIsUsb e1 = true → edgeIsUsb e2 = true →
    (∀ e ∈ es, edgeIsScan e = true) →
    (lastState [e1] s).usb.rq2Wgray = s.usb.rq1Wgray ∧
    (lastState (e1 :: (es ++ [e2])) s).usb.rq2Wgray = s.scan.wgray) ∧
  (∀ (e1 e2 : Edge) (es : List Edge) (s : State), edgeIsScan e1 = true → edgeIsScan e2 = true →
    (∀ e ∈ es, edgeIsUsb e = true) →
    (lastState [e1] s).scan.wq2Rgray = s.scan.wq1Rgray ∧
    (lastState (e1 :: (es ++ [e2])) s).scan.wq2Rgray = s.usb.rgray)

/-- R208: retry without duplication, with any waits in SERVICE and in ATTEMPT and any scan steps between. From a good
state with no attempt pending and b the oldest unconsumed byte, let the attempts along a run of clock edges be answered n
times, each time with failure, and an attempt be pending at its end, which is then answered with success. Over that run
the packet of b is presented n + 1 times and no other, it is delivered once, n SEND_FAIL records and one SENT record of
b are emitted, and b is popped, once. And such runs exist: from SERVICE with the head seen, n failed iterations and a
successful one, each answered at the first step, are one (R206, R290). -/
def Obligations.RetryWithoutDuplication : Prop :=
  (∀ (n : Nat) (es : List Edge) (a : Bool) (s : State) (b : Byte) (rest : List Byte), BlockInv s →
    s.usb.tphase ≠ .attempt → queueBytes s = b :: rest → (∀ x ∈ es, edgeIsClock x = true) →
    answers es s = List.replicate n false → (lastState es s).usb.tphase = .attempt →
    let run := es ++ [.usb a true true]
    ∃ k e, decodeEvt b = some (k, e) ∧
      presentations run s = List.replicate (n + 1) (encodePkt k e) ∧
      (∀ t ∈ trace run s, txReq t = true → txLanes t = encodePkt k e) ∧
      deliveries run s = [encodePkt k e] ∧
      diagRecords run s = List.replicate n (DiagCode.sendFail, b) ++ [(DiagCode.sent, b)] ∧
      ((trace run s).filter fun t => t.obs.pop).length = 1 ∧
      (lastState run s).usb.rbin = s.usb.rbin + 1#8 ∧ (lastState run s).usb.tphase = .service) ∧
  (∀ (n : Nat) (s : State), BlockInv s → s.usb.tphase = .service → rempty s = false →
    let es := (List.replicate n (iteration false)).flatten ++ iteration true
    ∃ b k e, peekHead s = some b ∧ decodeEvt b = some (k, e) ∧
      answers es s = List.replicate n false ++ [true] ∧
      presentations es s = List.replicate (n + 1) (encodePkt k e) ∧
      deliveries es s = [encodePkt k e] ∧
      diagRecords es s = List.replicate n (DiagCode.sendFail, b) ++ [(DiagCode.sent, b)] ∧
      (lastState es s).usb.rbin = s.usb.rbin + 1#8 ∧ (lastState es s).usb.tphase = .service)
end

