-- ==== Sys2Proof/Laws/Memory.lean ====
section
/-! SUPPORT. The laws of the queue storage: a read after a write, and the canonical form every write keeps. -/
namespace Sys2Proof.Machine

@[simp] theorem Memory.read_nil (a : Nat) : Memory.read [] a = none := rfl

@[simp] theorem Memory.read_cons (c : Host.Cell) (m : Memory) (a : Nat) :
    Memory.read (c :: m) a = if a = c.1 then some c.2 else Memory.read m a := rfl

/-- A read after a write of the same slot gives the byte written. -/
@[simp] theorem Memory.read_write_same (m : Memory) (a : Nat) (b : Byte) :
    Memory.read (Memory.write m a b) a = some b := by
  induction m with
  | nil => simp [Memory.write]
  | cons c m ih =>
    obtain ⟨a', b'⟩ := c
    simp only [Memory.write]
    split
    · simp
    · split
      · simp
      · simp_all

/-- A write leaves every other slot alone. -/
theorem Memory.read_write_other (m : Memory) (a i : Nat) (b : Byte) (h : i ≠ a) :
    Memory.read (Memory.write m a b) i = Memory.read m i := by
  induction m with
  | nil => simp [Memory.write, h]
  | cons c m ih =>
    obtain ⟨a', b'⟩ := c
    simp only [Memory.write]
    split
    · simp [h]
    · split
      · next e => subst e; simp [h]
      · simp [ih]

/-- The slots listed after a write are the written one and those listed before. -/
theorem Memory.mem_write {m : Memory} {a : Nat} {b : Byte} {c : Host.Cell} (h : c ∈ Memory.write m a b) :
    c = (a, b) ∨ c ∈ m := by
  induction m with
  | nil => simpa [Memory.write] using h
  | cons x m ih =>
    obtain ⟨a', b'⟩ := x
    simp only [Memory.write] at h
    split at h
    · simpa using h
    · split at h
      · rcases List.mem_cons.1 h with h | h
        · exact .inl h
        · exact .inr (List.mem_cons_of_mem _ h)
      · rcases List.mem_cons.1 h with h | h
        · exact .inr (h ▸ List.mem_cons_self)
        · exact (ih h).imp id (List.mem_cons_of_mem _)

/-- A write of one of the 128 slots keeps the canonical form. -/
theorem Memory.write_wf {m : Memory} {a : Nat} {b : Byte} (h : Memory.wf m) (ha : a < Config.depth) :
    Memory.wf (Memory.write m a b) := by
  refine ⟨?_, fun c hc => ?_⟩
  · obtain ⟨h, -⟩ := h
    induction m with
    | nil => simp [Memory.write]
    | cons x m ih =>
      obtain ⟨a', b'⟩ := x
      obtain ⟨h1, h2⟩ := List.pairwise_cons.1 h
      simp only [Memory.write]
      split
      · next lt =>
        refine List.pairwise_cons.2 ⟨fun y hy => ?_, h⟩
        rcases List.mem_cons.1 hy with rfl | hy
        · exact lt
        · exact Nat.lt_trans lt (h1 y hy)
      · split
        · next e => subst e; exact List.pairwise_cons.2 ⟨h1, h2⟩
        · next n1 n2 =>
          refine List.pairwise_cons.2 ⟨fun y hy => ?_, ih h2⟩
          rcases Memory.mem_write hy with rfl | hy
          · show a' < a; omega
          · exact h1 y hy
  · rcases Memory.mem_write hc with rfl | hc
    · exact ha
    · exact h.2 c hc

/-- The storage at reset is canonical. -/
theorem reset_mem_wf : State.reset.mem.wf := by decide

end Sys2Proof.Machine
end

