-- ==== Sys2Proof/Laws/Operands.lean ====
section
/-! SUPPORT. The laws of the pure functions: gray code, slots, the snapshot bit, the event byte. -/
namespace Sys2Proof.Machine

/-- Gray to binary undoes binary to gray (93 G6). -/
@[simp] theorem gray2bin_bin2gray (b : Ptr) : gray2bin (bin2gray b) = b := by
  revert b; decide +kernel

/-- Binary to gray undoes gray to binary (93 G6). -/
@[simp] theorem bin2gray_gray2bin (g : Ptr) : bin2gray (gray2bin g) = g := by
  revert g; decide +kernel

/-- Two pointers with one gray code are one pointer. -/
theorem bin2gray_inj {a b : Ptr} (h : bin2gray a = bin2gray b) : a = b := by
  simpa using congrArg gray2bin h

@[simp] theorem gray2bin_zero : gray2bin 0#8 = 0#8 := by decide

@[simp] theorem bin2gray_zero : bin2gray 0#8 = 0#8 := by decide

/-- A slot number is the pointer modulo 128. -/
theorem slotOf_eq (p : Ptr) : slotOf p = p.toNat % 128 := by
  simp [slotOf]

/-- Every slot number is one of the 128. -/
theorem slotOf_lt (p : Ptr) : slotOf p < Config.depth := by
  rw [slotOf_eq]; exact Nat.mod_lt _ (by decide)

/-- Two pointers less than 128 apart address different slots. -/
theorem slotOf_ne {p q : Ptr} (h : (q - p).toNat < 128) (h0 : q ≠ p) : slotOf q ≠ slotOf p := by
  rw [slotOf_eq, slotOf_eq]
  bv_omega

/-- The written snapshot bit reads as written. -/
theorem snapBit_setSnapBit_same (n : BitVec 49) (k : BitVec 7) (v : Bool) (hk : k.toNat < 49) :
    snapBit (setSnapBit n k v) k = v := by
  cases v <;> simp [snapBit, setSnapBit, hk]

/-- Writing one snapshot bit leaves the others. -/
theorem snapBit_setSnapBit_other (n : BitVec 49) (k j : BitVec 7) (v : Bool) (h : j ≠ k) :
    snapBit (setSnapBit n k v) j = snapBit n j := by
  have hn : j.toNat ≠ k.toNat := fun e => h (BitVec.eq_of_toNat_eq e)
  by_cases hj : j.toNat < 49
  · cases v <;> simp [snapBit, setSnapBit, hj] <;> omega
  · rw [snapBit, snapBit, BitVec.getLsbD_of_ge _ _ (by omega), BitVec.getLsbD_of_ge _ _ (by omega)]

/-- A key of the matrix is legal, and it is the raw index less 4 (R161). -/
theorem classify_key {row col : BitVec 3} {k : BitVec 7} (h : classify row col = .key k) :
    k.toNat + 4 = (posRaw row col).toNat ∧ k.toNat < 49 := by
  have all : ∀ r c : BitVec 3, ∀ x ∈ (match classify r c with | .key k => some k | _ => none),
      x.toNat + 4 = (posRaw r c).toNat ∧ x.toNat < 49 := by decide +kernel
  exact all row col k (by rw [h]; rfl)

end Sys2Proof.Machine
end

