-- ==== Sys2Proof/Laws/State.lean ====
section
/-! SUPPORT. The small lemmas of the state updates: one per field per update. -/
namespace Sys2Proof.Machine

@[simp] theorem State.withScan_scan (s : State) (r : ScanRegs) : (s.withScan r).scan = r := rfl
@[simp] theorem State.withScan_mem (s : State) (r : ScanRegs) : (s.withScan r).mem = s.mem := rfl
@[simp] theorem State.withScan_usb (s : State) (r : ScanRegs) : (s.withScan r).usb = s.usb := rfl
@[simp] theorem State.withScan_pins (s : State) (r : ScanRegs) : (s.withScan r).pins = s.pins := rfl
@[simp] theorem State.withScan_obs (s : State) (r : ScanRegs) : (s.withScan r).obs = s.obs := rfl
@[simp] theorem State.withScan_events (s : State) (r : ScanRegs) : (s.withScan r).events = s.events := rfl
@[simp] theorem State.withScan_tick (s : State) (r : ScanRegs) : (s.withScan r).tick = s.tick := rfl
@[simp] theorem State.withScan_resets (s : State) (r : ScanRegs) : (s.withScan r).resets = s.resets := rfl

@[simp] theorem State.withMem_scan (s : State) (m : Memory) : (s.withMem m).scan = s.scan := rfl
@[simp] theorem State.withMem_mem (s : State) (m : Memory) : (s.withMem m).mem = m := rfl
@[simp] theorem State.withMem_usb (s : State) (m : Memory) : (s.withMem m).usb = s.usb := rfl
@[simp] theorem State.withMem_pins (s : State) (m : Memory) : (s.withMem m).pins = s.pins := rfl
@[simp] theorem State.withMem_obs (s : State) (m : Memory) : (s.withMem m).obs = s.obs := rfl
@[simp] theorem State.withMem_events (s : State) (m : Memory) : (s.withMem m).events = s.events := rfl
@[simp] theorem State.withMem_tick (s : State) (m : Memory) : (s.withMem m).tick = s.tick := rfl
@[simp] theorem State.withMem_resets (s : State) (m : Memory) : (s.withMem m).resets = s.resets := rfl

@[simp] theorem State.withUsb_scan (s : State) (r : UsbRegs) : (s.withUsb r).scan = s.scan := rfl
@[simp] theorem State.withUsb_mem (s : State) (r : UsbRegs) : (s.withUsb r).mem = s.mem := rfl
@[simp] theorem State.withUsb_usb (s : State) (r : UsbRegs) : (s.withUsb r).usb = r := rfl
@[simp] theorem State.withUsb_pins (s : State) (r : UsbRegs) : (s.withUsb r).pins = s.pins := rfl
@[simp] theorem State.withUsb_obs (s : State) (r : UsbRegs) : (s.withUsb r).obs = s.obs := rfl
@[simp] theorem State.withUsb_events (s : State) (r : UsbRegs) : (s.withUsb r).events = s.events := rfl
@[simp] theorem State.withUsb_tick (s : State) (r : UsbRegs) : (s.withUsb r).tick = s.tick := rfl
@[simp] theorem State.withUsb_resets (s : State) (r : UsbRegs) : (s.withUsb r).resets = s.resets := rfl

@[simp] theorem State.withPins_scan (s : State) (p : Pins) : (s.withPins p).scan = s.scan := rfl
@[simp] theorem State.withPins_mem (s : State) (p : Pins) : (s.withPins p).mem = s.mem := rfl
@[simp] theorem State.withPins_usb (s : State) (p : Pins) : (s.withPins p).usb = s.usb := rfl
@[simp] theorem State.withPins_pins (s : State) (p : Pins) : (s.withPins p).pins = p := rfl
@[simp] theorem State.withPins_obs (s : State) (p : Pins) : (s.withPins p).obs = s.obs := rfl
@[simp] theorem State.withPins_events (s : State) (p : Pins) : (s.withPins p).events = s.events := rfl
@[simp] theorem State.withPins_tick (s : State) (p : Pins) : (s.withPins p).tick = s.tick := rfl
@[simp] theorem State.withPins_resets (s : State) (p : Pins) : (s.withPins p).resets = s.resets := rfl

@[simp] theorem State.withObs_scan (s : State) (o : Obs) : (s.withObs o).scan = s.scan := rfl
@[simp] theorem State.withObs_mem (s : State) (o : Obs) : (s.withObs o).mem = s.mem := rfl
@[simp] theorem State.withObs_usb (s : State) (o : Obs) : (s.withObs o).usb = s.usb := rfl
@[simp] theorem State.withObs_pins (s : State) (o : Obs) : (s.withObs o).pins = s.pins := rfl
@[simp] theorem State.withObs_obs (s : State) (o : Obs) : (s.withObs o).obs = o := rfl
@[simp] theorem State.withObs_events (s : State) (o : Obs) : (s.withObs o).events = s.events := rfl
@[simp] theorem State.withObs_tick (s : State) (o : Obs) : (s.withObs o).tick = s.tick := rfl
@[simp] theorem State.withObs_resets (s : State) (o : Obs) : (s.withObs o).resets = s.resets := rfl

end Sys2Proof.Machine
end

