-- ==== Sys2Proof/Laws/Ops.lean ====
section
/-! SUPPORT. What each shared operation of Machine/Ops.lean can do, said once: the fields of the unconditional ones,
and the cases of the conditional ones. -/
namespace Sys2Proof.Machine

/-! ### PUSH, POP, the record, halt entry, the synchronisers: fields -/

@[simp] theorem push_scan (b : Byte) (s : State) : (push b s).scan =
    { s.scan with wbin := s.scan.wbin + 1#8, wgray := bin2gray (s.scan.wbin + 1#8) } := rfl
@[simp] theorem push_mem (b : Byte) (s : State) : (push b s).mem = s.mem.write (slotOf s.scan.wbin) b := rfl
@[simp] theorem push_usb (b : Byte) (s : State) : (push b s).usb = s.usb := rfl
@[simp] theorem push_pins (b : Byte) (s : State) : (push b s).pins = s.pins := rfl
@[simp] theorem push_obs (b : Byte) (s : State) : (push b s).obs = { s.obs with push := some b } := rfl
@[simp] theorem push_events (b : Byte) (s : State) : (push b s).events = s.events := rfl
@[simp] theorem push_tick (b : Byte) (s : State) : (push b s).tick = s.tick := rfl
@[simp] theorem push_resets (b : Byte) (s : State) : (push b s).resets = s.resets := rfl

@[simp] theorem pop_scan (s : State) : (pop s).scan = s.scan := rfl
@[simp] theorem pop_mem (s : State) : (pop s).mem = s.mem := rfl
@[simp] theorem pop_usb (s : State) : (pop s).usb =
    { s.usb with rbin := s.usb.rbin + 1#8, rgray := bin2gray (s.usb.rbin + 1#8) } := rfl
@[simp] theorem pop_pins (s : State) : (pop s).pins = s.pins := rfl
@[simp] theorem pop_obs (s : State) : (pop s).obs = { s.obs with pop := true } := rfl
@[simp] theorem pop_events (s : State) : (pop s).events = s.events := rfl
@[simp] theorem pop_tick (s : State) : (pop s).tick = s.tick := rfl
@[simp] theorem pop_resets (s : State) : (pop s).resets = s.resets := rfl

@[simp] theorem emitDiag_scan (c : DiagCode) (b : Byte) (s : State) : (emitDiag c b s).scan = s.scan := rfl
@[simp] theorem emitDiag_mem (c : DiagCode) (b : Byte) (s : State) : (emitDiag c b s).mem = s.mem := rfl
@[simp] theorem emitDiag_usb (c : DiagCode) (b : Byte) (s : State) : (emitDiag c b s).usb =
    { s.usb with diagValid := true, diagCode := c, diagByte := b } := rfl
@[simp] theorem emitDiag_pins (c : DiagCode) (b : Byte) (s : State) : (emitDiag c b s).pins = s.pins := rfl
@[simp] theorem emitDiag_obs (c : DiagCode) (b : Byte) (s : State) : (emitDiag c b s).obs = s.obs := rfl
@[simp] theorem emitDiag_events (c : DiagCode) (b : Byte) (s : State) : (emitDiag c b s).events = s.events := rfl
@[simp] theorem emitDiag_tick (c : DiagCode) (b : Byte) (s : State) : (emitDiag c b s).tick = s.tick := rfl
@[simp] theorem emitDiag_resets (c : DiagCode) (b : Byte) (s : State) : (emitDiag c b s).resets = s.resets := rfl

@[simp] theorem raiseFatal_overflow (s : State) : raiseFatal .overflow s =
    s.withScan { s.scan with sfatal := .overflow, rowN := rowsIdle, sphase := .halted } := rfl
@[simp] theorem raiseFatal_init (s : State) : raiseFatal .init s =
    s.withScan { s.scan with sfatal := .init, rowN := rowsIdle, sphase := .halted } := rfl
@[simp] theorem raiseFatal_decode (s : State) : raiseFatal .decode s =
    s.withUsb { s.usb with tfatal := true, tphase := .halted } := rfl

@[simp] theorem syncR2W_scan (pre s : State) : (syncR2W pre s).scan =
    { s.scan with wq2Rgray := pre.scan.wq1Rgray, wq1Rgray := pre.usb.rgray } := rfl
@[simp] theorem syncR2W_mem (pre s : State) : (syncR2W pre s).mem = s.mem := rfl
@[simp] theorem syncR2W_usb (pre s : State) : (syncR2W pre s).usb = s.usb := rfl
@[simp] theorem syncR2W_obs (pre s : State) : (syncR2W pre s).obs = s.obs := rfl
@[simp] theorem syncR2W_pins (pre s : State) : (syncR2W pre s).pins = s.pins := rfl
@[simp] theorem syncR2W_events (pre s : State) : (syncR2W pre s).events = s.events := rfl
@[simp] theorem syncR2W_tick (pre s : State) : (syncR2W pre s).tick = s.tick := rfl
@[simp] theorem syncR2W_resets (pre s : State) : (syncR2W pre s).resets = s.resets := rfl

@[simp] theorem syncW2R_scan (pre s : State) : (syncW2R pre s).scan = s.scan := rfl
@[simp] theorem syncW2R_mem (pre s : State) : (syncW2R pre s).mem = s.mem := rfl
@[simp] theorem syncW2R_usb (pre s : State) : (syncW2R pre s).usb =
    { s.usb with rq2Wgray := pre.usb.rq1Wgray, rq1Wgray := pre.scan.wgray } := rfl
@[simp] theorem syncW2R_obs (pre s : State) : (syncW2R pre s).obs = s.obs := rfl
@[simp] theorem syncW2R_pins (pre s : State) : (syncW2R pre s).pins = s.pins := rfl
@[simp] theorem syncW2R_events (pre s : State) : (syncW2R pre s).events = s.events := rfl
@[simp] theorem syncW2R_tick (pre s : State) : (syncW2R pre s).tick = s.tick := rfl
@[simp] theorem syncW2R_resets (pre s : State) : (syncW2R pre s).resets = s.resets := rfl

@[simp] theorem clearDiag_scan (s : State) : (clearDiag s).scan = s.scan := rfl
@[simp] theorem clearDiag_mem (s : State) : (clearDiag s).mem = s.mem := rfl
@[simp] theorem clearDiag_usb (s : State) : (clearDiag s).usb = { s.usb with diagValid := false } := rfl
@[simp] theorem clearDiag_pins (s : State) : (clearDiag s).pins = s.pins := rfl
@[simp] theorem clearDiag_obs (s : State) : (clearDiag s).obs = s.obs := rfl
@[simp] theorem clearDiag_events (s : State) : (clearDiag s).events = s.events := rfl
@[simp] theorem clearDiag_tick (s : State) : (clearDiag s).tick = s.tick := rfl
@[simp] theorem clearDiag_resets (s : State) : (clearDiag s).resets = s.resets := rfl

/-! ### The conditional operations: what each can do -/

/-- The guarded push either finds the queue full and changes nothing, or pushes. -/
theorem tryPush_cases (b : Byte) (s : State) :
    (wfull s = true ∧ tryPush b s = s) ∨ (wfull s = false ∧ tryPush b s = push b s) := by
  cases h : wfull s <;> simp [tryPush, h]

/-- A queue PEEK finds nothing, or the byte of the head slot. -/
theorem peekHead_cases (s : State) :
    (rempty s = true ∧ peekHead s = none) ∨
      (rempty s = false ∧ peekHead s = some (readSlot s (slotOf s.usb.rbin))) := by
  cases h : rempty s <;> simp [peekHead, h]

/-- WAIT_HS waits, halts on `F = 0`, or accepts the Handoff. -/
theorem opWaitHs_cases (s : State) :
    (s.pins.hsValid = false ∧ opWaitHs s = s) ∨
    (s.pins.hsValid = true ∧ s.pins.hsData = 0#32 ∧ opWaitHs s = raiseFatal .init s) ∨
    (s.pins.hsValid = true ∧ s.pins.hsData ≠ 0#32 ∧
      opWaitHs s = s.withScan { s.scan with settle := settleLoad s.pins.hsData, row := 0#3, sphase := .strobe }) := by
  cases h : s.pins.hsValid
  · simp [opWaitHs, h]
  · by_cases h0 : s.pins.hsData = 0#32 <;> simp [opWaitHs, h, h0]

/-- SETTLE ends its wait or counts down. -/
theorem opSettle_cases (s : State) :
    (s.scan.cnt ≤ 1#16 ∧ opSettle s = s.withScan { s.scan with sphase := .sample }) ∨
    (1#16 < s.scan.cnt ∧ opSettle s = s.withScan { s.scan with cnt := s.scan.cnt - 1#16 }) := by
  by_cases h : s.scan.cnt ≤ 1#16
  · exact .inl ⟨h, by simp [opSettle, h]⟩
  · exact .inr ⟨BitVec.not_le.1 h, by simp [opSettle, h]⟩

/-- After a sample that did not halt, the row ends or the next column waits. -/
theorem nextColumn_cases (s : State) :
    (s.scan.col = 7#3 ∧ nextColumn s = s.withScan { s.scan with sphase := .release }) ∨
    (s.scan.col ≠ 7#3 ∧
      nextColumn s = s.withScan { s.scan with col := s.scan.col + 1#3, cnt := s.scan.settle, sphase := .settle }) := by
  by_cases h : s.scan.col = 7#3 <;> simp [nextColumn, h]

/-- SAMPLE only moves on, or takes the edge of a key whose level changed. -/
theorem opSample_cases (s : State) :
    opSample s = nextColumn s ∨
    ∃ k, classify s.scan.row s.scan.col = .key k ∧ samplePressed s ≠ snapBit s.scan.snap k ∧
      opSample s = keyEdge k (samplePressed s) s := by
  simp only [opSample]
  split
  · exact .inl rfl
  · exact .inl rfl
  · next k hk =>
    split
    · exact .inl rfl
    · next h => exact .inr ⟨k, hk, h, rfl⟩

/-- The state of an edge before the queue is asked: the snapshot bit and the formed byte (R166). -/
def withEdge (k : BitVec 7) (pressed : Bool) (s : State) : State :=
  (s.withScan { s.scan with snap := setSnapBit s.scan.snap k pressed }).withObs
    { s.obs with evt := some (encodeEvt k pressed) }

/-- A key's edge halts the Scanner on a full queue, or pushes the event byte and moves on. -/
theorem keyEdge_cases (k : BitVec 7) (pressed : Bool) (s : State) :
    (wfull s = true ∧ keyEdge k pressed s = (withEdge k pressed s).withScan
      { s.scan with
        snap := setSnapBit s.scan.snap k pressed, lost := encodeEvt k pressed, sfatal := .overflow, rowN := rowsIdle,
        sphase := .halted }) ∨
    (wfull s = false ∧ keyEdge k pressed s = nextColumn (push (encodeEvt k pressed) (withEdge k pressed s))) := by
  cases h : wfull s
  · exact .inr ⟨rfl, by simp [keyEdge, h, withEdge]⟩
  · exact .inl ⟨rfl, by simp [keyEdge, h, withEdge, State.withScan, State.withObs]⟩

/-- PEEK ends the iteration, halts the Transmitter on a reserved byte, or starts the attempt of a legal one. -/
theorem opPeek_cases (s : State) :
    (peekHead s = none ∧
      opPeek s = (s.withObs { s.obs with head := some none }).withUsb { s.usb with tphase := .service }) ∨
    (∃ b, peekHead s = some b ∧ decodeEvt b = none ∧
      opPeek s = (s.withObs { s.obs with head := some (some b) }).withUsb
        { s.usb with
          bad := b, diagValid := true, diagCode := .fatalDecode, diagByte := b, tfatal := true,
          tphase := .halted }) ∨
    (∃ b k e, peekHead s = some b ∧ decodeEvt b = some (k, e) ∧
      opPeek s = (s.withObs { s.obs with head := some (some b), pkt := some (encodePkt k e) }).withUsb
        { s.usb with
          pkt0 := (encodePkt k e).p0, pkt1 := (encodePkt k e).p1, pkt2 := (encodePkt k e).p2,
          pkt3 := (encodePkt k e).p3, hold := b, tphase := .attempt }) := by
  rcases h : peekHead s with _ | b
  · exact .inl ⟨rfl, by simp [opPeek, h]⟩
  · rcases hd : decodeEvt b with _ | ⟨k, e⟩
    · exact .inr (.inl ⟨b, rfl, hd, by simp [opPeek, h, hd, emitDiag, State.withObs, State.withUsb]⟩)
    · exact .inr (.inr ⟨b, k, e, rfl, hd, by simp [opPeek, h, hd, State.withObs, State.withUsb]⟩)

/-- ATTEMPT waits, pops on success, or keeps the head on failure. -/
theorem opAttempt_cases (s : State) :
    (s.pins.txDone = false ∧ opAttempt s = s) ∨
    (s.pins.txDone = true ∧ s.pins.txOk = true ∧
      opAttempt s = (s.withObs { s.obs with delivered := some (txLanes s), pop := true }).withUsb
        { s.usb with
          rbin := s.usb.rbin + 1#8, rgray := bin2gray (s.usb.rbin + 1#8), diagValid := true, diagCode := .sent,
          diagByte := s.usb.hold, tphase := .service }) ∨
    (s.pins.txDone = true ∧ s.pins.txOk = false ∧
      opAttempt s = s.withUsb
        { s.usb with diagValid := true, diagCode := .sendFail, diagByte := s.usb.hold, tphase := .service }) := by
  cases h : s.pins.txDone
  · exact .inl ⟨rfl, by simp [opAttempt, h]⟩
  · cases ho : s.pins.txOk
    · exact .inr (.inr ⟨rfl, rfl, by simp [opAttempt, h, ho, endAttempt, emitDiag, State.withUsb]⟩)
    · exact .inr (.inl ⟨rfl, rfl, by simp [opAttempt, h, ho, endAttempt, emitDiag, pop, State.withUsb, State.withObs]⟩)

/-! ### The frame of each domain's actions -/

/-- What no action of the scan domain touches: the USB domain, the write side's views, the inputs and the model's
counters; and the head, packet and pop paths. -/
structure ScanFrame (s t : State) : Prop where
  usb : t.usb = s.usb
  wq1 : t.scan.wq1Rgray = s.scan.wq1Rgray
  wq2 : t.scan.wq2Rgray = s.scan.wq2Rgray
  pins : t.pins = s.pins
  events : t.events = s.events
  tick : t.tick = s.tick
  resets : t.resets = s.resets
  pop : t.obs.pop = s.obs.pop
  delivered : t.obs.delivered = s.obs.delivered

theorem scanFrame_refl (s : State) : ScanFrame s s := ⟨rfl, rfl, rfl, rfl, rfl, rfl, rfl, rfl, rfl⟩

theorem opWaitHs_frame (s : State) : ScanFrame s (opWaitHs s) := by
  rcases opWaitHs_cases s with ⟨-, h⟩ | ⟨-, -, h⟩ | ⟨-, -, h⟩ <;> rw [h] <;> constructor <;> rfl

theorem opSettle_frame (s : State) : ScanFrame s (opSettle s) := by
  rcases opSettle_cases s with ⟨-, h⟩ | ⟨-, h⟩ <;> rw [h] <;> constructor <;> rfl

theorem nextColumn_frame (s : State) : ScanFrame s (nextColumn s) := by
  rcases nextColumn_cases s with ⟨-, h⟩ | ⟨-, h⟩ <;> rw [h] <;> constructor <;> rfl

theorem keyEdge_frame (k : BitVec 7) (pressed : Bool) (s : State) : ScanFrame s (keyEdge k pressed s) := by
  rcases keyEdge_cases k pressed s with ⟨-, h⟩ | ⟨-, h⟩
  · rw [h]; constructor <;> rfl
  · rw [h]
    rcases nextColumn_cases (push (encodeEvt k pressed) (withEdge k pressed s)) with ⟨-, e⟩ | ⟨-, e⟩ <;> rw [e] <;>
      constructor <;> rfl

theorem opSample_frame (s : State) : ScanFrame s (opSample s) := by
  rcases opSample_cases s with h | ⟨k, -, -, h⟩ <;> rw [h]
  · exact nextColumn_frame s
  · exact keyEdge_frame k _ s

/-- No action of the scan domain touches the USB domain or its own synchroniser (R160, R195). -/
theorem scanAction_frame (s : State) : ScanFrame s (scanAction s) := by
  simp only [scanAction]
  split
  · exact opWaitHs_frame s
  · constructor <;> rfl
  · exact opSettle_frame s
  · exact opSample_frame s
  · constructor <;> rfl
  · exact scanFrame_refl s

/-- What no action of the USB domain touches: the scan domain, the storage, the read side's views, the inputs and the
model's counters; and the push path. -/
structure UsbFrame (s t : State) : Prop where
  scan : t.scan = s.scan
  mem : t.mem = s.mem
  rq1 : t.usb.rq1Wgray = s.usb.rq1Wgray
  rq2 : t.usb.rq2Wgray = s.usb.rq2Wgray
  pins : t.pins = s.pins
  events : t.events = s.events
  tick : t.tick = s.tick
  resets : t.resets = s.resets
  push : t.obs.push = s.obs.push

/-- No action of the USB domain touches the scan domain, the storage or its own synchroniser (R195, R200). -/
theorem usbAction_frame (s : State) : UsbFrame s (usbAction s) := by
  simp only [usbAction]
  split
  · simp only [opService]; split <;> constructor <;> rfl
  · rcases opPeek_cases s with ⟨-, h⟩ | ⟨b, -, -, h⟩ | ⟨b, k, e, -, -, h⟩ <;> rw [h] <;> constructor <;> rfl
  · rcases opAttempt_cases s with ⟨-, h⟩ | ⟨-, -, h⟩ | ⟨-, -, h⟩ <;> rw [h] <;> constructor <;> rfl
  · constructor <;> rfl

end Sys2Proof.Machine
end

