-- ==== Sys2Proof/Laws/PerInstr.lean ====
section
/-! SUPPORT. Statements about every operation as syntax, one lemma per constructor. -/
namespace Sys2Proof.Laws

/-- The code word of an operation fits the width of its format (R110, R128). -/
def EncodingFits.Statement (i : Instr) : Prop := encode i >>> i.format.width = 0#40

theorem EncodingFits.waitHs : EncodingFits.Statement .waitHs := by unfold EncodingFits.Statement; decide
theorem EncodingFits.strobe : EncodingFits.Statement .strobe := by unfold EncodingFits.Statement; decide
theorem EncodingFits.settle : EncodingFits.Statement .settle := by unfold EncodingFits.Statement; decide
theorem EncodingFits.sample : EncodingFits.Statement .sample := by unfold EncodingFits.Statement; decide
theorem EncodingFits.release : EncodingFits.Statement .release := by unfold EncodingFits.Statement; decide
theorem EncodingFits.halted : EncodingFits.Statement .halted := by unfold EncodingFits.Statement; decide
theorem EncodingFits.service : EncodingFits.Statement .service := by unfold EncodingFits.Statement; decide
theorem EncodingFits.peek : EncodingFits.Statement .peek := by unfold EncodingFits.Statement; decide
theorem EncodingFits.attempt : EncodingFits.Statement .attempt := by unfold EncodingFits.Statement; decide
theorem EncodingFits.haltedTx : EncodingFits.Statement .haltedTx := by unfold EncodingFits.Statement; decide
theorem EncodingFits.pop : EncodingFits.Statement .pop := by unfold EncodingFits.Statement; decide
theorem EncodingFits.peekQ : EncodingFits.Statement .peekQ := by unfold EncodingFits.Statement; decide
theorem EncodingFits.svcDone : EncodingFits.Statement .svcDone := by unfold EncodingFits.Statement; decide
theorem EncodingFits.txDoneOk : EncodingFits.Statement .txDoneOk := by unfold EncodingFits.Statement; decide
theorem EncodingFits.txDoneFail : EncodingFits.Statement .txDoneFail := by unfold EncodingFits.Statement; decide

/-- A value zero-extended from `n` bits has nothing above bit `n`. -/
theorem shiftRight_setWidth_eq_zero {n : Nat} (x : BitVec n) : (x.setWidth 40) >>> n = 0#40 := by
  apply BitVec.eq_of_getLsbD_eq
  intro i hi
  simp [BitVec.getLsbD_setWidth]

theorem EncodingFits.push (d : Byte) : EncodingFits.Statement (.push d) := shiftRight_setWidth_eq_zero (1#1 ++ d)
theorem EncodingFits.evtPress (k : BitVec 7) : EncodingFits.Statement (.evtPress k) :=
  shiftRight_setWidth_eq_zero (1#1 ++ k)
theorem EncodingFits.evtRelease (k : BitVec 7) : EncodingFits.Statement (.evtRelease k) :=
  shiftRight_setWidth_eq_zero (0#1 ++ k)
theorem EncodingFits.noteOn (c : BitVec 4) (n : BitVec 7) : EncodingFits.Statement (.noteOn c n) :=
  shiftRight_setWidth_eq_zero (0x09#8 ++ 0x9#4 ++ c ++ 0#1 ++ n ++ 0x7F#8)
theorem EncodingFits.noteOff (c : BitVec 4) (n : BitVec 7) : EncodingFits.Statement (.noteOff c n) :=
  shiftRight_setWidth_eq_zero (0x08#8 ++ 0x8#4 ++ c ++ 0#1 ++ n ++ 0x7F#8)
theorem EncodingFits.handoff (f : BitVec 32) : EncodingFits.Statement (.handoff f) :=
  shiftRight_setWidth_eq_zero (1#1 ++ f)
theorem EncodingFits.diagSent (b : Byte) : EncodingFits.Statement (.diagSent b) :=
  shiftRight_setWidth_eq_zero (0b100#3 ++ b)
theorem EncodingFits.diagSendFail (b : Byte) : EncodingFits.Statement (.diagSendFail b) :=
  shiftRight_setWidth_eq_zero (0b101#3 ++ b)
theorem EncodingFits.diagFatalDecode (b : Byte) : EncodingFits.Statement (.diagFatalDecode b) :=
  shiftRight_setWidth_eq_zero (0b110#3 ++ b)

end Sys2Proof.Laws
end

