-- ==== Sys2Proof/Laws/Step.lean ====
section
/-! SUPPORT. What a step is at each kind of event, so that no proof about runs unfolds `step`. -/
namespace Sys2Proof.Machine

@[simp] theorem takeEvent_scan (s : State) : (takeEvent s).scan = s.scan := rfl
@[simp] theorem takeEvent_mem (s : State) : (takeEvent s).mem = s.mem := rfl
@[simp] theorem takeEvent_usb (s : State) : (takeEvent s).usb = s.usb := rfl
@[simp] theorem takeEvent_obs (s : State) : (takeEvent s).obs = Obs.quiet := rfl
@[simp] theorem takeEvent_events (s : State) : (takeEvent s).events = s.events.tail := rfl
@[simp] theorem takeEvent_resets (s : State) : (takeEvent s).resets = s.resets := rfl
@[simp] theorem takeEvent_pins (s : State) : (takeEvent s).pins = eventPins (nextEvent s) s.pins := rfl

/-- A scenario's first event is the next. -/
@[simp] theorem nextEvent_cons (s : State) (e : Event) (es : List Event) (h : s.events = e :: es) :
    nextEvent s = e := by
  simp [nextEvent, h]

/-- Decoding a Scanner phase code and running it is the phase's action. -/
theorem exec_sphase (s : State) :
    ∃ i, decode .sphase ((sphaseCode s.scan.sphase).setWidth 40) = .ok i ∧
      exec i s = .next (scanAction s) := by
  cases h : s.scan.sphase
  · exact ⟨.waitHs, by decide, by simp [exec, execWaitHs, scanAction, h]⟩
  · exact ⟨.strobe, by decide, by simp [exec, execStrobe, scanAction, h]⟩
  · exact ⟨.settle, by decide, by simp [exec, execSettle, scanAction, h]⟩
  · exact ⟨.sample, by decide, by simp [exec, execSample, scanAction, h]⟩
  · exact ⟨.release, by decide, by simp [exec, execRelease, scanAction, h]⟩
  · exact ⟨.halted, by decide, by simp [exec, execHalted, scanAction, h]⟩

/-- Decoding a Transmitter phase code and running it is the phase's action. -/
theorem exec_tphase (s : State) :
    ∃ i, decode .tphase ((tphaseCode s.usb.tphase).setWidth 40) = .ok i ∧
      exec i s = .next (usbAction s) := by
  cases h : s.usb.tphase
  · exact ⟨.service, by decide, by simp [exec, execService, usbAction, h]⟩
  · exact ⟨.peek, by decide, by simp [exec, execPeek, usbAction, h]⟩
  · exact ⟨.attempt, by decide, by simp [exec, execAttempt, usbAction, h]⟩
  · exact ⟨.haltedTx, by decide, by simp [exec, execHaltedTx, usbAction, h]⟩

/-- A step at a `scan_clk` edge: the phase's action and the synchroniser, from the values before the edge (R160). -/
theorem step_scanEdge {s : State} {v : Bool} {d : BitVec 32} {c : BitVec 8}
    (h : nextEvent s = .edge (.scan v d c)) :
    step s = .next (syncR2W (takeEvent s) (scanAction (takeEvent s))) := by
  obtain ⟨i, hd, he⟩ := exec_sphase (takeEvent s)
  simp only [takeEvent_scan] at hd
  simp [step, fetchWord, h, stepWord, hd, domainOf, beforeStep, afterStep, he, mapNext]

/-- A step at a `usb_clk` edge: `diag_valid` cleared, the phase's action, and the synchroniser (R200). -/
theorem step_usbEdge {s : State} {a b c : Bool} (h : nextEvent s = .edge (.usb a b c)) :
    step s = .next (syncW2R (takeEvent s) (usbAction (clearDiag (takeEvent s)))) := by
  obtain ⟨i, hd, he⟩ := exec_tphase (clearDiag (takeEvent s))
  simp only [clearDiag_usb, takeEvent_usb] at hd
  simp [step, fetchWord, h, stepWord, hd, domainOf, beforeStep, afterStep, he, mapNext]

/-- A step in reset (R270). -/
theorem step_resetEdge {s : State} (h : nextEvent s = .edge .reset) :
    step s = .next (applyReset (takeEvent s)) := by
  simp [step, fetchWord, h]

end Sys2Proof.Machine
end

