-- ==== Sys2Proof/Tests/Slice0.lean ====
section
/-! SUPPORT. The model's own tests: the smoke test of WellFormed, words written out from spec/30_encoding.md, single
steps whose results are the vectors of spec/95_test_vectors.md (named in each comment), and one witness for every
statement that has hypotheses. -/
namespace Sys2Proof.Tests
open Sys2Proof Sys2Proof.Machine

/-- What an outcome's next state shows through `g`; nothing if it stops. -/
def shows {α : Type} (g : State → α) (o : Host.Outcome State Fault Refusal) : Option α :=
  match o with
  | .next t => some (g t)
  | .fault _ => none
  | .refused _ => none

/-- An outcome with a next state has what it shows. -/
theorem shows_next {α : Type} {g : State → α} {o : Host.Outcome State Fault Refusal} {x : α} (h : shows g o = some x) :
    ∃ t, o = .next t ∧ g t = x := by
  cases o with
  | next t => exact ⟨t, rfl, by simpa [shows] using h⟩
  | fault r => cases h
  | refused r => cases h

/-- `s` with `e` as its next clock edge. -/
def at_ (e : Edge) (s : State) : State := { s with events := [.edge e] }

/-- `s` with a code word on a port next. -/
def onPort (f : Format) (w : Code) (s : State) : State := { s with events := [.port f w] }

/-- A scan edge with the column levels `c` and no Handoff. -/
def cols (c : BitVec 8) : Edge := .scan false 0#32 c

/-- The Scanner in a phase at a position, settle length 3 (F = 1 MHz), nothing queued. -/
def scanner (p : ScanPhase) (row col : BitVec 3) : State :=
  { State.reset with scan := { ScanRegs.reset with
      sphase := p, row := row, col := col, settle := 3#16, cnt := 1#16,
      rowN := if rowDriven p then strobeLine row else rowsIdle } }

/-- `s` with the byte `b` queued in slot 0 and seen by the read side, the Transmitter in phase `p`. -/
def queued (p : TxPhase) (b : Byte) (s : State) : State :=
  { s with
    scan := { s.scan with wbin := 1#8, wgray := 1#8 }, mem := [(0, b)],
    usb := { s.usb with tphase := p, rq1Wgray := 1#8, rq2Wgray := 1#8 } }

/-- The Transmitter attempting the byte `0x96`. -/
def attempting : State :=
  let s := queued .attempt 0x96#8 State.reset
  let p := encodePkt 22#7 true
  { s with usb := { s.usb with hold := 0x96#8, pkt0 := p.p0, pkt1 := p.p1, pkt2 := p.p2, pkt3 := p.p3 } }

/-- 128 bytes queued, none popped, none seen by the read side; the Scanner in SAMPLE at (4,2). -/
def full : State :=
  let s := scanner .sample 4#3 2#3
  { s with
    scan := { s.scan with wbin := 128#8, wgray := 0xC0#8 }, mem := (List.range 128).map fun i => (i, 0x80#8) }

/-! ### WellFormed -/

theorem test_wf_refuses_press_49 : (Instr.evtPress 49#7).wf = false := by decide
theorem test_wf_refuses_release_127 : (Instr.evtRelease 127#7).wf = false := by decide
theorem test_wf_admits_key_48 : (Instr.evtPress 48#7).wf = true ∧ (Instr.evtRelease 48#7).wf = true := by decide

/-! ### Words written out from R111 to R122 -/

theorem test_decode_sphase :
    decode .sphase 0b000#40 = .ok .waitHs ∧ decode .sphase 0b001#40 = .ok .strobe ∧
    decode .sphase 0b010#40 = .ok .settle ∧ decode .sphase 0b011#40 = .ok .sample ∧
    decode .sphase 0b100#40 = .ok .release ∧ decode .sphase 0b101#40 = .ok .halted ∧
    decode .sphase 0b110#40 = .error .reservedPhase ∧ decode .sphase 0b111#40 = .error .reservedPhase ∧
    decode .sphase 0b1000#40 = .error .tooWide := by decide
theorem test_decode_tphase :
    decode .tphase 0b00#40 = .ok .service ∧ decode .tphase 0b01#40 = .ok .peek ∧
    decode .tphase 0b10#40 = .ok .attempt ∧ decode .tphase 0b11#40 = .ok .haltedTx := by decide
/-- `1dddddddd` with d = 0x96; `0dddddddd` selects nothing. -/
theorem test_decode_wport :
    decode .wport 0b110010110#40 = .ok (.push 0x96#8) ∧ decode .wport 0b010010110#40 = .error .idle := by decide
theorem test_decode_rport : decode .rport 0b1#40 = .ok .pop ∧ decode .rport 0b0#40 = .ok .peekQ := by decide
/-- Section 2.2 of the vectors: 0x96, 0x16, 0xB0, 0x30 legal; 0x31, 0xB1, 0xFF, 0xC8 fail. -/
theorem test_decode_evt8 :
    decode .evt8 0b10010110#40 = .ok (.evtPress 22#7) ∧ decode .evt8 0b00010110#40 = .ok (.evtRelease 22#7) ∧
    decode .evt8 0b10110000#40 = .ok (.evtPress 48#7) ∧ decode .evt8 0b00110000#40 = .ok (.evtRelease 48#7) ∧
    decode .evt8 0x31#40 = .error .reservedKeyIndex ∧ decode .evt8 0xB1#40 = .error .reservedKeyIndex ∧
    decode .evt8 0xFF#40 = .error .reservedKeyIndex ∧ decode .evt8 0xC8#40 = .error .reservedKeyIndex := by decide
/-- Section 2.7 of the vectors; `0x09903A00`, `0x19903A7F`, `0x0990BA7F` match neither row. -/
theorem test_decode_usbmidi4 :
    decode .usbmidi4 0x09903A7F#40 = .ok (.noteOn 0#4 0x3A#7) ∧
    decode .usbmidi4 0x088F3A7F#40 = .ok (.noteOff 15#4 0x3A#7) ∧
    decode .usbmidi4 0x09903A00#40 = .error .notProduced ∧ decode .usbmidi4 0x19903A7F#40 = .error .notProduced ∧
    decode .usbmidi4 0x0990BA7F#40 = .error .notProduced := by decide
/-- Section 2.5 of the vectors: 125 MHz is 0x07735940. -/
theorem test_decode_hs33 :
    decode .hs33 0x107735940#40 = .ok (.handoff 125000000#32) ∧ decode .hs33 0x007735940#40 = .error .idle := by decide
theorem test_decode_svc1_txd2 :
    decode .svc1 0b1#40 = .ok .svcDone ∧ decode .svc1 0b0#40 = .error .idle ∧
    decode .txd2 0b11#40 = .ok .txDoneOk ∧ decode .txd2 0b10#40 = .ok .txDoneFail ∧
    decode .txd2 0b01#40 = .error .idle := by decide
theorem test_decode_diag11 :
    decode .diag11 0b10010010110#40 = .ok (.diagSent 0x96#8) ∧
    decode .diag11 0b10110010110#40 = .ok (.diagSendFail 0x96#8) ∧
    decode .diag11 0b11000110001#40 = .ok (.diagFatalDecode 0x31#8) ∧
    decode .diag11 0b11100000000#40 = .error .reservedDiagCode ∧
    decode .diag11 0b00000000000#40 = .error .idle := by decide
theorem test_table_words :
    decodeTableWord 8 0 = some .waitHs ∧ decodeTableWord 8 0x96 = some (.evtPress 22#7) ∧
    decodeTableWord 16 0x196 = some (.push 0x96#8) ∧ decodeTableWord 16 0x631 = some (.diagFatalDecode 0x31#8) ∧
    decodeTableWord 32 0x08803C7F = some (.noteOff 0#4 60#7) ∧
    decodeTableWord 40 0x1000F4240 = some (.handoff 1000000#32) ∧ decodeTableWord 1 0 = some .peekQ ∧
    decodeTableWord 2 3 = some .haltedTx ∧ decodeTableWord 8 0x31 = none := by decide

/-! ### Section 2.3 and 2.4 of the vectors -/

theorem test_gray : bin2gray 127#8 = 0x40#8 ∧ bin2gray 128#8 = 0xC0#8 ∧ bin2gray 200#8 = 0xAC#8 ∧
    bin2gray 255#8 = 0x80#8 ∧ gray2bin 0xC2#8 = 131#8 := by decide
/-- `wbin = 3, wq2 = 0xC2` is full across the wrap; `wbin = 130, wq2 = 0x02` holds 127. -/
theorem test_wfull :
    (let s := State.reset
     wfull { s with scan := { s.scan with wbin := 3#8, wq2Rgray := 0xC2#8 } } = true ∧
     wlevel { s with scan := { s.scan with wbin := 130#8, wq2Rgray := 0x02#8 } } = 127#8) := by decide
/-- `rbin = 255, rgray = 0x80, rq2 = 0x00`: one byte across the wrap. -/
theorem test_rempty :
    (let s := State.reset
     let t : State := { s with usb := { s.usb with rbin := 255#8, rgray := 0x80#8, rq2Wgray := 0#8 } }
     rempty t = false ∧ rlevel t = 1#8) := by decide

/-! ### Single steps: the Scanner (section 2.6 of the vectors) -/

/-- S3. -/
theorem test_wait_hs : shows (fun t => (t.scan.settle, t.scan.row, t.scan.sphase, scanStatus t))
    (step (at_ (.scan true 125000000#32 0xFF#8) State.reset)) =
    some (127#16, 0#3, .strobe, 0x000001#24) := by decide
/-- S4. -/
theorem test_wait_hs_zero : shows (fun t => (t.scan.sfatal, t.scan.rowN, t.scan.sphase, scanStatus t))
    (step (at_ (.scan true 0#32 0xFF#8) State.reset)) = some (.init, 0x7F#7, .halted, 0x00000B#24) := by decide
/-- S6. -/
theorem test_strobe : shows (fun t => (t.scan.rowN, t.scan.col, t.scan.cnt, t.scan.sphase))
    (step (at_ (cols 0xFF#8) (scanner .strobe 3#3 5#3))) = some (0b1110111#7, 0#3, 3#16, .settle) := by decide
/-- S8, S10. -/
theorem test_settle : shows (fun t => (t.scan.sphase, t.scan.cnt))
    (step (at_ (cols 0xFF#8) (scanner .settle 3#3 0#3))) = some (.sample, 1#16) ∧
    (let s := scanner .settle 3#3 0#3
     shows (fun t => (t.scan.sphase, t.scan.cnt))
      (step (at_ (cols 0xFF#8) { s with scan := { s.scan with cnt := 3#16 } })) = some (.settle, 2#16)) := by decide
/-- S14. -/
theorem test_sample_press :
    (let o := step (at_ (cols 0b11111011#8) (scanner .sample 3#3 2#3))
     shows (fun t => (t.scan.snap, t.scan.wbin, t.scan.wgray)) o = some (0x400000#49, 1#8, 1#8) ∧
     shows (fun t => t.mem) o = some [(0, 0x96#8)] ∧
     shows (fun t => (t.scan.col, t.scan.cnt, t.scan.sphase)) o = some (3#3, 3#16, .settle)) := by decide
/-- S18, and `SCAN_STATUS = 0x9E8097` of section 2.9. -/
theorem test_sample_overflow : shows (fun t => ((t.scan.lost, t.scan.sfatal, t.scan.rowN, scanStatus t),
      (t.scan.wbin, t.scan.col, t.scan.snap)))
    (step (at_ (cols 0b11111011#8) full)) =
    some ((0x9E#8, .overflow, 0x7F#7, 0x9E8097#24), (128#8, 2#3, 0x40000000#49)) := by decide
/-- S22. -/
theorem test_release : shows (fun t => (t.scan.rowN, t.scan.row, t.scan.sphase))
    (step (at_ (cols 0xFF#8) (scanner .release 6#3 7#3))) = some (0x7F#7, 0#3, .strobe) := by decide
/-- S23. -/
theorem test_halted : shows (fun t => t.scan) (step (at_ (.scan true 5#32 0#8) (scanner .halted 4#3 2#3))) =
    some (scanner .halted 4#3 2#3).scan := by decide

/-! ### Single steps: the Transmitter (section 2.8 of the vectors) -/

/-- T2, T3. -/
theorem test_service : shows (fun t => t.usb.tphase) (step (at_ (.usb true false false) State.reset)) = some .peek ∧
    shows (fun t => t.usb) (step (at_ (.usb false true true) State.reset)) = some UsbRegs.reset := by decide
/-- T5, the bytes that do not depend on `CH` and `KEYMAP`. -/
theorem test_peek : shows (fun t => (t.usb.pkt0, t.usb.pkt3, t.usb.hold, t.usb.tphase))
    (step (at_ (.usb false false false) (queued .peek 0x96#8 State.reset))) =
    some (0x09#8, 0x7F#8, 0x96#8, .attempt) := by decide
/-- T9, and `TX_STATUS = 0x310103` of section 2.9. -/
theorem test_peek_reserved : shows (fun t => (t.usb.bad, diagWord t, t.usb.tfatal, txStatus t, t.usb.rbin))
    (step (at_ (.usb false false false) (queued .peek 0x31#8 State.reset))) =
    some (0x31#8, 0b11000110001#11, true, 0x310103#24, 0#8) := by decide
/-- T12. -/
theorem test_attempt_ok : shows (fun t => (t.usb.rbin, t.usb.rgray, diagWord t, t.usb.tphase))
    (step (at_ (.usb false true true) attempting)) = some (1#8, 1#8, 0b10010010110#11, .service) := by decide
/-- T13. -/
theorem test_attempt_fail : shows (fun t => (t.usb.rbin, diagWord t, t.usb.tphase))
    (step (at_ (.usb false true false) attempting)) = some (0#8, 0b10110010110#11, .service) := by decide
/-- T15. -/
theorem test_halted_tx :
    (let s := queued .halted 0x31#8 State.reset
     shows (fun t => (t.usb.diagValid, t.usb.tphase, svcReq t, txReq t))
      (step (at_ (.usb true true true) { s with usb := { s.usb with diagValid := true } })) =
      some (false, .halted, false, false)) := by decide

/-! ### Single steps: the ports -/

/-- Section 2.4: PUSH at `wbin = 255` writes slot 127. -/
theorem test_push : shows (fun t => (t.mem, t.scan.wbin, t.scan.wgray)) (step (onPort .wport 0x196#40 State.reset)) =
    some ([(0, 0x96#8)], 1#8, 1#8) ∧
    (let s := State.reset
     shows (fun t => (t.mem, t.scan.wbin, t.scan.wgray)) (step (onPort .wport 0x196#40
      { s with scan := { s.scan with wbin := 255#8, wgray := 0x80#8, wq2Rgray := 0x80#8 } })) =
      some ([(127, 0x96#8)], 0#8, 0#8)) := by decide
/-- R182: on full nothing in the queue changes. -/
theorem test_push_full : shows (fun t => (t.scan.wbin, t.mem == full.mem)) (step (onPort .wport 0x196#40 full)) =
    some (128#8, true) := by decide +kernel
/-- Section 2.4: POP at `rbin = 0` and at 255. -/
theorem test_pop : shows (fun t => (t.usb.rbin, t.usb.rgray, t.mem)) (step (onPort .rport 1#40
      (queued .service 0x96#8 State.reset))) = some (1#8, 1#8, [(0, 0x96#8)]) ∧
    (let s := State.reset
     shows (fun t => (t.usb.rbin, t.usb.rgray)) (step (onPort .rport 1#40
      { s with usb := { s.usb with rbin := 255#8, rgray := 0x80#8 } })) = some (0#8, 0#8)) := by decide
/-- R183's example. -/
theorem test_peek_q : shows (fun t => (t.obs.head, t.usb.rbin)) (step (onPort .rport 0#40
      (queued .service 0x96#8 State.reset))) = some (some (some 0x96#8), 0#8) ∧
    shows (fun t => t.obs.head) (step (onPort .rport 0#40 State.reset)) = some (some none) := by decide
/-- R220's examples. -/
theorem test_evt : shows (fun t => t.obs.evt) (step (onPort .evt8 0x96#40 State.reset)) = some (some 0x96#8) ∧
    shows (fun t => t.obs.evt) (step (onPort .evt8 0x16#40 State.reset)) = some (some 0x16#8) := by decide
/-- A reserved EVT8 word is refused by name. -/
theorem test_evt_reserved : step (onPort .evt8 0x31#40 State.reset) = .refused (.reservedEncoding .evt8) := by
  rfl
/-- R114 and R115 with `CH = 0` and note 60: `09 90 3C 7F` and `08 80 3C 7F`. -/
theorem test_notes : shows (fun t => t.obs.pkt) (step (onPort .usbmidi4 0x09903C7F#40 State.reset)) =
      some (some { p0 := 0x09#8, p1 := 0x90#8, p2 := 0x3C#8, p3 := 0x7F#8 }) ∧
    shows (fun t => t.obs.pkt) (step (onPort .usbmidi4 0x08803C7F#40 State.reset)) =
      some (some { p0 := 0x08#8, p1 := 0x80#8, p2 := 0x3C#8, p3 := 0x7F#8 }) := by decide
/-- S2, and S23 for a Handoff after the halt. -/
theorem test_handoff : shows (fun t => (t.scan.settle, t.scan.sphase))
    (step (onPort .hs33 0x1000F4240#40 State.reset)) = some (3#16, .strobe) ∧
    shows (fun t => t.scan) (step (onPort .hs33 0x1000F4240#40 (scanner .halted 4#3 2#3))) =
      some (scanner .halted 4#3 2#3).scan := by decide
/-- T2, T14. -/
theorem test_svc_done : shows (fun t => t.usb.tphase) (step (onPort .svc1 1#40 State.reset)) = some .peek ∧
    shows (fun t => (t.usb.tphase, t.usb.rbin)) (step (onPort .svc1 1#40 attempting)) = some (.attempt, 0#8) := by
  decide
/-- T12, T13. -/
theorem test_tx_done : shows (fun t => (t.usb.rbin, diagWord t)) (step (onPort .txd2 3#40 attempting)) =
      some (1#8, 0b10010010110#11) ∧
    shows (fun t => (t.usb.rbin, diagWord t)) (step (onPort .txd2 2#40 attempting)) =
      some (0#8, 0b10110010110#11) := by decide
/-- R122: SENT, SEND_FAIL and FATAL_DECODE stand on the port as driven. -/
theorem test_diag : shows diagWord (step (onPort .diag11 0b10010010110#40 State.reset)) = some 0b10010010110#11 ∧
    shows diagWord (step (onPort .diag11 0b10110010110#40 State.reset)) = some 0b10110010110#11 ∧
    shows diagWord (step (onPort .diag11 0b11000110001#40 State.reset)) = some 0b11000110001#11 := by decide

/-! ### The host's interface -/

theorem test_fetch_word_strobe : shows (fun t => t.scan.sphase) (step (State.reset.withFetchWord 8 1)) = some .settle := by
  decide
theorem test_fetch_word_push : shows (fun t => t.mem) (step (State.reset.withFetchWord 16 0x1B0)) =
    some [(0, 0xB0#8)] := by decide
/-- Reset restores both domains; the halt is left (R247). -/
theorem test_reset : shows (fun t => (t.scan, t.mem, t.usb)) (step (at_ .reset attempting)) =
    some (ScanRegs.reset, [], UsbRegs.reset) := by decide

/-! ### Witnesses: good states -/

/-- A good state is good with any input levels and any clock edge next. -/
theorem good_with {s : State} (h : BlockInv s) (p : Pins) (e : Edge) :
    BlockInv { s with pins := p, events := [.edge e] } := by
  obtain ⟨-, b, c, d, f⟩ := h
  exact ⟨by simp [Composed, eventIsEdge], ⟨b.1, b.2, b.3⟩, ⟨c.1, c.2⟩, ⟨d.1, d.2⟩, ⟨f.1, f.2, f.3, f.4, f.5⟩⟩

/-- The byte `0x96` queued and seen, the Transmitter in SERVICE. -/
theorem good_queued : BlockInv (queued .service 0x96#8 State.reset) := by
  refine ⟨by unfold Composed; decide, ⟨by decide, by decide, by decide⟩, ⟨by decide, fun j hj => ?_⟩,
    ⟨by decide, fun h => ?_⟩, ⟨by decide, by decide, by decide, by decide, by decide⟩⟩
  · obtain rfl : j = 0 := by
      have : j < 1 := hj
      omega
    exact ⟨0x96#8, by decide, by decide⟩
  · cases h

/-- The byte `0x96` in its send attempt. -/
theorem good_attempting : BlockInv attempting := by
  refine ⟨by unfold Composed; decide, ⟨by decide, by decide, by decide⟩, ⟨by decide, fun j hj => ?_⟩,
    ⟨by decide, fun _ => ⟨by decide, by decide, 22#7, true, by decide, rfl⟩⟩,
    ⟨by decide, by decide, by decide, by decide, by decide⟩⟩
  obtain rfl : j = 0 := by
    have : j < 1 := hj
    omega
  exact ⟨0x96#8, by decide, by decide⟩

/-- SAMPLE of key 22, released, nothing queued. -/
theorem good_sample : BlockInv (scanner .sample 3#3 2#3) := by
  refine ⟨by unfold Composed; decide, ⟨by decide, by decide, by decide⟩, ⟨by decide, fun j hj => ?_⟩,
    ⟨by decide, fun h => ?_⟩, ⟨by decide, by decide, by decide, by decide, by decide⟩⟩
  · have : j < 0 := hj
    omega
  · cases h

/-- The full queue. -/
theorem good_full : BlockInv full := by
  refine ⟨by unfold Composed; decide, ⟨by decide, by decide, by decide⟩, ⟨by decide +kernel, fun j hj => ?_⟩,
    ⟨by decide, fun h => ?_⟩, ⟨by decide, by decide, by decide, by decide, by decide⟩⟩
  · have all : ∀ j, j < 128 → full.mem.read (slotOf (0#8 + BitVec.ofNat 8 j)) = some 0x80#8 := by decide +kernel
    exact ⟨0x80#8, all j hj, by decide⟩
  · cases h

/-! ### Witnesses: one for each statement that has hypotheses -/

/-- DecodeOfEncodeIsTheOperation, DecodedWordIsTheEncoding: the last legal key, and its word. -/
theorem witness_encoding : (Instr.evtPress 48#7).wf = true ∧ decode .evt8 0xB0#40 = .ok (.evtPress 48#7) := by decide
/-- ReservedCodesAreRejected: the first and the last reserved byte, and a reserved phase word on its port. -/
theorem witness_reserved : 49 ≤ (0x31#8).toNat % 128 ∧ 49 ≤ (0xFF#8).toNat % 128 ∧
    fetchWord (onPort .sphase 6#40 State.reset) = some (.sphase, 6#40) ∧
    decode .sphase 6#40 = .error .reservedPhase ∧ Reject.reservedPhase ≠ .idle := by decide
/-- EventByteRoundTrip, both clauses at the last key. -/
theorem witness_event_byte : (48#7).toNat ≤ 48 ∧ decodeEvt 0x30#8 = some (48#7, false) := by decide
/-- FullFlagBinaryAndGray, EmptyFlagAndLevels: a state whose gray pointers match, full, and its read side empty. -/
theorem witness_flags : full.scan.wgray = bin2gray full.scan.wbin ∧ full.usb.rgray = bin2gray full.usb.rbin := by decide
/-- EmptyFlagAndLevels, its clauses of R249: a step that halts with INIT and nothing queued, one that halts with OVERFLOW
and `WLEVEL = 128`, and one that reads a reserved head byte. -/
theorem witness_fatal_words :
    shows wlevel (step (at_ (.scan true 0#32 0xFF#8) State.reset)) = some 0#8 ∧
    State.reset.scan.sphase = .waitHs ∧ State.reset.scan.row = 0#3 ∧ State.reset.scan.lost = 0#8 ∧
    shows (fun t => (t.scan.sphase, wlevel t)) (step (at_ (cols 0b11111011#8) full)) = some (.halted, 128#8) ∧
    full.scan.sphase = .sample ∧
    (queued .peek 0x31#8 State.reset).usb.tphase = .peek ∧
    peekHead (queued .peek 0x31#8 State.reset) = some 0x31#8 ∧ decodeEvt 0x31#8 = none := by decide
/-- SettleLengthIsExact at both ends of F. -/
theorem witness_settle_length : (1#32 : BitVec 32) ≠ 0#32 ∧ (0xFFFFFFFF#32 : BitVec 32) ≠ 0#32 := by decide
/-- DistinctEventsHaveDistinctPackets: a packet equals itself. -/
theorem witness_packets : encodePkt 22#7 true = encodePkt 22#7 true := rfl
/-- PresentedPacketIsANote. -/
theorem witness_presented : BlockInv (at_ (.usb false false false) attempting) ∧
    txReq (at_ (.usb false false false) attempting) = true := ⟨good_with good_attempting _ _, by decide⟩
/-- WaitHsTakesTheHandoff, its second clause: a nonzero Handoff and a zero one. -/
theorem witness_wait_hs :
    (let s (f : BitVec 32) := State.reset.withPins { Pins.idle with hsValid := true, hsData := f }
     (∃ t, exec .waitHs (s 1#32) = .next t) ∧ (s 1#32).pins.hsValid = true ∧
     (∃ t, exec .waitHs (s 0#32) = .next t) ∧ (s 0#32).pins.hsValid = true) := ⟨⟨_, rfl⟩, rfl, ⟨_, rfl⟩, rfl⟩
/-- StrobeDrivesOneRow, its second clause, at the last row. -/
theorem witness_strobe : ∃ t, exec .strobe (scanner .strobe 6#3 0#3) = .next t := ⟨_, rfl⟩
/-- SampleTakesTheEdge: raw 3 and 53 are no keys, raw 4 and 52 are the first and the last. -/
theorem witness_sample_classes : classify 0#3 3#3 = .noKeyLow ∧ classify 0#3 4#3 = .key 0#7 ∧
    classify 6#3 4#3 = .key 48#7 ∧ classify 6#3 5#3 = .noKeyHigh := by decide
/-- PushingOperationsStoreOneSlot: a sample that pushes, one that does not, and a PUSH. -/
theorem witness_pushing :
    (let s := (scanner .sample 3#3 2#3).withPins { Pins.idle with colN := 0b11111011#8 }
     shows (fun t => (t.scan.wbin, t.obs.push)) (exec .sample s) = some (1#8, some 0x96#8)) ∧
    shows (fun t => t.scan.wbin) (exec .sample (scanner .sample 3#3 2#3)) = some 0#8 ∧
    shows (fun t => (t.scan.wbin, t.obs.push)) (exec (.push 0x16#8) State.reset) = some (1#8, some 0x16#8) := by decide
/-- HaltedScannerOnlyShifts, and NoClockEdgeLeavesAHalt for the Scanner. -/
theorem witness_halted :
    (let s := at_ (cols 0#8) (scanner .halted 4#3 2#3)
     nextEvent s = .edge (.scan false 0#32 0#8) ∧ edgeIsClock (.scan false 0#32 0#8) = true ∧
     s.scan.sphase = .halted ∧ ∃ t, step s = .next t) := ⟨rfl, rfl, rfl, _, rfl⟩
/-- HaltedTransmitterOnlyShifts, and NoClockEdgeLeavesAHalt for the Transmitter. -/
theorem witness_halted_tx :
    (let s := at_ (.usb true true true) (queued .halted 0x31#8 State.reset)
     nextEvent s = .edge (.usb true true true) ∧ edgeIsClock (.usb true true true) = true ∧ s.usb.tphase = .halted ∧
     ∃ t, step s = .next t) := ⟨rfl, rfl, rfl, _, rfl⟩
/-- EventBytesAreFormed: the last legal key and the first reserved one. -/
theorem witness_event_keys : (48#7).toNat ≤ 48 ∧ 49 ≤ (49#7).toNat := by decide
/-- HandoffIsReadOnlyInWaitHs: WAIT_HS, and a phase that ignores it. -/
theorem witness_handoff : State.reset.scan.sphase = .waitHs ∧ (scanner .sample 3#3 2#3).scan.sphase ≠ .waitHs := by decide
/-- ServiceDoneIsReadOnlyInService, SendAnswersAreReadOnlyInAttempt: a state in each phase. -/
theorem witness_tx_phases : State.reset.usb.tphase = .service ∧ (queued .peek 0#8 State.reset).usb.tphase = .peek ∧
    attempting.usb.tphase = .attempt ∧ (queued .halted 0#8 State.reset).usb.tphase = .halted := by decide
/-- DiagnosticRecordsSetThePort, its last clause. -/
theorem witness_diag : ∃ t, exec (.diagSent 0x96#8) State.reset = .next t := ⟨_, rfl⟩
/-- StepRunsTheDecodedOperation: a clock edge and a port. -/
theorem witness_step :
    fetchWord (at_ (cols 0xFF#8) (scanner .sample 3#3 2#3)) = some (.sphase, 3#40) ∧
    decode .sphase 3#40 = .ok .sample ∧
    fetchWord (onPort .rport 1#40 State.reset) = some (.rport, 1#40) ∧ decode .rport 1#40 = .ok .pop := by decide
/-- ScanEdgeRunsThePhase. -/
theorem witness_scan_edge :
    (let s := at_ (cols 0xFF#8) (scanner .sample 3#3 2#3)
     nextEvent s = .edge (.scan false 0#32 0xFF#8) ∧ ∃ t, exec (scanInstr s.scan.sphase) (takeEvent s) = .next t) :=
  ⟨rfl, _, rfl⟩
/-- UsbEdgeRunsThePhase. -/
theorem witness_usb_edge :
    (let s := at_ (.usb false true true) attempting
     nextEvent s = .edge (.usb false true true) ∧
     ∃ t, exec (txInstr s.usb.tphase) ((takeEvent s).withUsb { s.usb with diagValid := false }) = .next t) :=
  ⟨rfl, _, rfl⟩
/-- ResetRestoresBothDomains. -/
theorem witness_reset : nextEvent (at_ .reset attempting) = .edge .reset := rfl
/-- DomainsWriteOnlyTheirOwn: a port of each domain. -/
theorem witness_domain_ports :
    (∃ t, step (onPort .wport 0x196#40 State.reset) = .next t) ∧
    nextEvent (onPort .wport 0x196#40 State.reset) = .port .wport 0x196#40 ∧ domainOf .wport = .scan ∧
    (∃ t, step (onPort .rport 1#40 State.reset) = .next t) ∧ domainOf .rport = .usb ∧
    (∃ t, step (onPort .evt8 0x96#40 State.reset) = .next t) ∧ domainOf .evt8 = .comb :=
  ⟨⟨_, rfl⟩, rfl, rfl, ⟨_, rfl⟩, rfl, ⟨_, rfl⟩, rfl⟩
/-- DomainsWriteOnlyTheirOwn: an edge of each clock. -/
theorem witness_domains :
    (∃ t, step (at_ (cols 0xFF#8) full) = .next t) ∧ nextEvent (at_ (cols 0xFF#8) full) = .edge (cols 0xFF#8) ∧
    (∃ t, step (at_ (.usb false true true) attempting) = .next t) ∧
    nextEvent (at_ (.usb false true true) attempting) = .edge (.usb false true true) :=
  ⟨⟨_, rfl⟩, rfl, ⟨_, rfl⟩, rfl⟩
/-- InputsAreIgnoredOutsideTheirPhase: one state outside WAIT_HS, SAMPLE, SERVICE and ATTEMPT. -/
theorem witness_inputs :
    (let s := queued .peek 0x96#8 (scanner .strobe 3#3 0#3)
     s.scan.sphase ≠ .waitHs ∧ s.scan.sphase ≠ .sample ∧ s.usb.tphase ≠ .service ∧ s.usb.tphase ≠ .attempt) := by decide
/-- DiagnosticRecordTiming: an answered attempt, a reserved head byte, and a step with no record. -/
theorem witness_record :
    shows (fun t => t.usb.diagValid) (step (at_ (.usb false true false) attempting)) = some true ∧
    shows (fun t => t.usb.diagValid) (step (at_ (.usb false false false) (queued .peek 0x31#8 State.reset))) = some true ∧
    shows (fun t => t.usb.diagValid) (step (at_ (.usb false false false) attempting)) = some false := by decide
/-- ComposedBlockNeverStops. -/
theorem witness_composed : Composed (at_ .reset State.reset) := by unfold Composed; decide
/-- EveryStepKeepsAGoodState, NoUnconsumedByteIsOverwritten, QueueIsFirstInFirstOut: a step that pushes. -/
theorem witness_push_step : BlockInv (at_ (cols 0b11111011#8) (scanner .sample 3#3 2#3)) ∧
    nextEvent (at_ (cols 0b11111011#8) (scanner .sample 3#3 2#3)) ≠ .edge .reset ∧
    shows (fun t => t.obs.push) (step (at_ (cols 0b11111011#8) (scanner .sample 3#3 2#3))) = some (some 0x96#8) :=
  ⟨good_with good_sample _ _, by decide, by decide⟩
/-- The same statements and DeliveryIsOfTheOldestByte: a step that pops, with one byte unconsumed before it. -/
theorem witness_pop_step : BlockInv (at_ (.usb false true true) attempting) ∧
    nextEvent (at_ (.usb false true true) attempting) ≠ .edge .reset ∧
    0 < (tlevel (at_ (.usb false true true) attempting)).toNat ∧
    shows (fun t => t.obs.pop) (step (at_ (.usb false true true) attempting)) = some true :=
  ⟨good_with good_attempting _ _, by decide, by decide, by decide⟩
/-- DeliveryIsOfTheOldestByte: a step from a good state that does not pop. -/
theorem witness_no_pop_step : BlockInv (at_ (.usb false true false) attempting) ∧
    nextEvent (at_ (.usb false true false) attempting) ≠ .edge .reset ∧
    shows (fun t => t.obs.pop) (step (at_ (.usb false true false) attempting)) = some false :=
  ⟨good_with good_attempting _ _, by decide, by decide⟩
/-- LevelsAreOrdered, AtMostOneRowIsDriven: the full queue, in SAMPLE of row 4. -/
theorem witness_levels : BlockInv (at_ (cols 0xFF#8) full) ∧ (tlevel full).toNat = 128 := ⟨good_with good_full _ _, by decide⟩
/-- CapacityBoundary: the full queue and an edge of key 30. -/
theorem witness_capacity :
    (let s : State := { full with pins := { Pins.idle with colN := 0b11111011#8 }, events := [.edge (cols 0xFF#8)] }
     BlockInv s ∧ (tlevel s).toNat = 128 ∧ classify s.scan.row s.scan.col = .key 30#7 ∧
     (!s.pins.colN.getLsbD s.scan.col.toNat) ≠ s.scan.snap.getLsbD (30#7).toNat) :=
  ⟨good_with good_full _ _, by decide, by decide, by decide⟩
/-- DecodeFatalIsUnreachable: a run of two steps from reset. -/
theorem witness_run : ∃ s, Sys2Proof.core.run 2
    ({ State.reset with events := [cols 0xFF#8, .usb true false false].map Event.edge } : State) = .next s := ⟨_, rfl⟩
/-- EdgeOnlyEmission, EdgesAlternatePerKey: key 22 pressed, in a run that does not halt. -/
theorem witness_edges :
    (let s := scanner .sample 3#3 2#3
     let es := [cols 0b11111011#8, .usb false false false]
     (∀ e ∈ es, edgeIsClock e = true) ∧ (lastState es s).scan.sphase ≠ .halted ∧ keySamples 22#7 es s = [true] ∧
     keyPushes 22#7 es s = [true]) := by decide
/-- UnchangedScanPushesNothing: key 22 sampled released, as its snapshot bit says, and no other key sampled, with a USB
step between the two scan steps. -/
theorem witness_unchanged :
    (let s := scanner .sample 3#3 2#3
     let es := [cols 0xFF#8, .usb false false false, cols 0#8]
     (∀ e ∈ es, edgeIsClock e = true) ∧ keySamples 22#7 es s = [false] ∧
     ∀ k, ∀ x ∈ keySamples k es s, x = snapBit s.scan.snap k) := by decide +kernel
/-- SettleWaitIsExact: a wait of three scan steps with a USB step among them, and a wait of one with no edge before it. -/
theorem witness_settle :
    (let s (n : BitVec 16) : State :=
       let u := scanner .settle 3#3 0#3
       { u with scan := { u.scan with cnt := n } }
     let es := [cols 0xFF#8, .usb false false false, cols 0xFF#8]
     (∀ e ∈ es, edgeIsClock e = true) ∧ edgeIsScan (cols 0#8) = true ∧ (s 3#16).scan.sphase = .settle ∧
     (s 3#16).scan.cnt.toNat = scanSteps es + 1 ∧ (s 1#16).scan.cnt.toNat = scanSteps [] + 1 ∧
     ∀ e ∈ [cols 0xFF#8, cols 0xFF#8], edgeIsScan e = true) := by decide
/-- ScanCycleSamplesEveryPosition: the shortest settle length, no key pressed, USB steps among the scan steps. -/
theorem witness_scan_cycle :
    (let s : State := { State.reset with scan := { ScanRegs.reset with sphase := .strobe, settle := 1#16 } }
     let es := (List.replicate 63 [cols 0xFF#8, .usb true false false, cols 0xFF#8]).flatten
     (∀ e ∈ es, edgeIsClock e = true) ∧ s.scan.sphase = .strobe ∧ s.scan.row = 0#3 ∧ 1 ≤ s.scan.settle.toNat ∧
     scanSteps es = 7 * (2 + 8 * (s.scan.settle.toNat + 1)) ∧ (lastState es s).scan.sphase ≠ .halted) := by
  refine ⟨by decide +kernel, rfl, rfl, by decide, by decide +kernel, by decide +kernel⟩
/-- PointersCrossInTwoSteps: edges of each clock between two of the other. -/
theorem witness_pointers : edgeIsUsb (.usb false false false) = true ∧ edgeIsScan (cols 0xFF#8) = true ∧
    (∀ e ∈ [cols 0xFF#8], edgeIsScan e = true) ∧ (∀ e ∈ [Edge.usb false false false], edgeIsUsb e = true) := by decide
/-- RetryWithoutDuplication, its first part: one failed attempt, with waits in SERVICE and in ATTEMPT and scan steps among
the USB steps, and a second attempt pending at the end. -/
theorem witness_retry_waits :
    (let s := queued .service 0x96#8 State.reset
     let wait : Edge := .usb false false false
     let es := [wait, .usb true false false, wait, wait, cols 0xFF#8, .usb false true false, wait, cols 0#8,
       .usb true false false, wait, cols 0#8, wait]
     BlockInv s ∧ s.usb.tphase ≠ .attempt ∧ queueBytes s = [0x96#8] ∧ (∀ x ∈ es, edgeIsClock x = true) ∧
     answers es s = List.replicate 1 false ∧ (lastState es s).usb.tphase = .attempt) :=
  ⟨good_queued, by decide, by decide, by decide, by decide, by decide⟩
/-- RetryWithoutDuplication, its second part: the byte `0x96` seen, the Transmitter in SERVICE. -/
theorem witness_retry : BlockInv (at_ (cols 0xFF#8) (queued .service 0x96#8 State.reset)) ∧
    (at_ (cols 0xFF#8) (queued .service 0x96#8 State.reset)).usb.tphase = .service ∧
    rempty (at_ (cols 0xFF#8) (queued .service 0x96#8 State.reset)) = false :=
  ⟨good_with good_queued _ _, rfl, by decide⟩

end Sys2Proof.Tests
end

section
/-! PROOFS. The obligations of 00_scope.md: the gray code of a pointer (R29) and the settle length (R14, R21). -/
namespace Sys2Proof.Machine

/-- A bit of a gray code is the exclusive or of two neighbouring bits of the binary value (R29). -/
theorem getLsbD_bin2gray (b : Ptr) (i : Nat) :
    (bin2gray b).getLsbD i = (b.getLsbD i ^^ b.getLsbD (i + 1)) := by
  simp [bin2gray, Nat.add_comm]

/-- The recurrence of R29 from bit `i + 1` to bit `i`, for every `i`: beyond bit 7 all bits are 0. -/
theorem getLsbD_gray2bin (g : Ptr) (i : Nat) :
    (gray2bin g).getLsbD i = ((gray2bin g).getLsbD (i + 1) ^^ g.getLsbD i) := by
  have neighbours : g.getLsbD i = ((gray2bin g).getLsbD i ^^ (gray2bin g).getLsbD (i + 1)) := by
    rw [← getLsbD_bin2gray, bin2gray_gray2bin]
  rw [neighbours, Bool.xor_comm, Bool.xor_assoc, Bool.xor_self, Bool.xor_false]

/-- The recurrence starts at bit 7, which conversion leaves unchanged (R29). -/
theorem getLsbD_gray2bin_seven (g : Ptr) : (gray2bin g).getLsbD 7 = g.getLsbD 7 := by
  rw [getLsbD_gray2bin, BitVec.getLsbD_of_ge _ _ (Nat.le_refl 8), Bool.false_xor]

/-- The settle time in clock cycles is 1..4295 for every nonzero 32-bit `F` (R21). -/
theorem settleCycles_bounds {f : BitVec 32} (hf : f ≠ 0#32) :
    1 ≤ (f.toNat + 999999) / 1000000 ∧ (f.toNat + 999999) / 1000000 ≤ 4295 := by
  have positive : f.toNat ≠ 0 := fun h => hf (BitVec.eq_of_toNat_eq h)
  have width := f.isLt
  omega

/-- The settle length loses nothing to its 16 bits (R125 h). -/
theorem toNat_settleLoad {f : BitVec 32} (hf : f ≠ 0#32) :
    (settleLoad f).toNat = (f.toNat + 999999) / 1000000 + 2 := by
  obtain ⟨-, upper⟩ := settleCycles_bounds hf
  rw [settleLoad, Config.hzPerSettle, Config.colSyncStages, BitVec.toNat_ofNat, Nat.add_sub_assoc (by omega)]
  exact Nat.mod_eq_of_lt (by omega)

end Sys2Proof.Machine

open Sys2Proof.Machine

/-- Settles O6: the recurrence of `gray2bin` is read off `bin2gray (gray2bin g) = g` bit by bit. -/
theorem grayCodeBitsAndInverse : Obligations.GrayCodeBitsAndInverse :=
  ⟨fun _ => rfl,
    fun g => ⟨getLsbD_gray2bin_seven g, fun i => getLsbD_gray2bin g i⟩,
    fun v => ⟨gray2bin_bin2gray v, bin2gray_gray2bin v⟩⟩

/-- Settles O9: the cycle count is at most 4295, so the two synchroniser stages keep it below `2 ^ 16`. -/
theorem settleLengthIsExact : Obligations.SettleLengthIsExact := by
  intro f hf
  obtain ⟨lower, upper⟩ := settleCycles_bounds hf
  rw [toNat_settleLoad hf]
  refine ⟨rfl, ?_, ?_⟩ <;> omega

end

section
/-! PROOFS. The flags, levels and status words (10_state.md R65 to R69, R249). -/
namespace Sys2Proof.Machine

/-! ### The levels and their extremes (R65 to R67) -/

theorem toNat_wlevel (s : State) :
    (wlevel s).toNat = (s.scan.wbin.toNat + 256 - (gray2bin s.scan.wq2Rgray).toNat) % 256 := by
  rw [wlevel, BitVec.toNat_sub]
  have width := (gray2bin s.scan.wq2Rgray).isLt
  congr 1
  omega

theorem toNat_rlevel (s : State) :
    (rlevel s).toNat = ((gray2bin s.usb.rq2Wgray).toNat + 256 - s.usb.rbin.toNat) % 256 := by
  rw [rlevel, BitVec.toNat_sub]
  have width := s.usb.rbin.isLt
  congr 1
  omega

/-- `WFULL` is `WLEVEL` at the queue's depth (R65, R67). -/
theorem wfull_iff (s : State) : wfull s = true ↔ wlevel s = 128#8 := by
  rw [wfull, beq_iff_eq, Config.depth]

theorem wfull_iff_toNat (s : State) : wfull s = true ↔ (wlevel s).toNat = 128 := by
  rw [wfull_iff, ← BitVec.toNat_inj, BitVec.toNat_ofNat]

theorem rempty_iff (s : State) : rempty s = true ↔ s.usb.rgray = s.usb.rq2Wgray := beq_iff_eq

/-- A gray pointer in step with its binary pointer equals a gray view exactly when the binary values agree. -/
theorem bin2gray_eq_iff (b g : Ptr) : bin2gray b = g ↔ b = gray2bin g := by
  constructor
  · rintro rfl; rw [gray2bin_bin2gray]
  · rintro rfl; rw [bin2gray_gray2bin]

/-- Half a turn of the ring flips the two top bits of the gray code (R65). -/
theorem bin2gray_add_half (b : Ptr) : bin2gray (b + 128#8) = bin2gray b ^^^ 0xC0#8 := by
  revert b; decide +kernel

/-- The gray form of `WFULL` (R65). -/
theorem wfull_iff_gray {s : State} (h : s.scan.wgray = bin2gray s.scan.wbin) :
    wfull s = true ↔ s.scan.wgray = s.scan.wq2Rgray ^^^ 0xC0#8 :=
  calc wfull s = true
    _ ↔ s.scan.wbin = gray2bin s.scan.wq2Rgray + 128#8 := by
        rw [wfull_iff, wlevel, BitVec.sub_eq_iff_eq_add, BitVec.add_comm]
    _ ↔ bin2gray s.scan.wbin = bin2gray (gray2bin s.scan.wq2Rgray + 128#8) := ⟨congrArg _, bin2gray_inj⟩
    _ ↔ s.scan.wgray = s.scan.wq2Rgray ^^^ 0xC0#8 := by rw [bin2gray_add_half, bin2gray_gray2bin, h]

/-- The binary form of `REMPTY` (R66, R124). -/
theorem rempty_iff_bin {s : State} (h : s.usb.rgray = bin2gray s.usb.rbin) :
    rempty s = true ↔ s.usb.rbin = gray2bin s.usb.rq2Wgray := by
  rw [rempty_iff, h, bin2gray_eq_iff]

/-- `REMPTY` is `RLEVEL` at 0 (R66, R67). -/
theorem rempty_iff_rlevel {s : State} (h : s.usb.rgray = bin2gray s.usb.rbin) :
    rempty s = true ↔ (rlevel s).toNat = 0 := by
  rw [rempty_iff_bin h, rlevel]
  bv_omega

/-! ### The status words, field by field (R68, R69) -/

/-- The fields of a word laid out as `SCAN_STATUS` is (R68), each at its position. -/
theorem scanWord_fields {lost level : Byte} {row : BitVec 3} {full halted done : Bool} {code : BitVec 2}
    (w : BitVec (8 + 8 + 3 + 1 + 2 + 1 + 1))
    (hw : w = lost ++ level ++ row ++ BitVec.ofBool full ++ code ++ BitVec.ofBool halted ++ BitVec.ofBool done) :
    w.getLsbD 0 = done ∧ w.getLsbD 1 = halted ∧ w.extractLsb' 2 2 = code ∧ w.getLsbD 4 = full ∧
    w.extractLsb' 5 3 = row ∧ w.extractLsb' 8 8 = level ∧ w.extractLsb' 16 8 = lost := by
  subst hw
  simp [-Nat.reduceAdd, BitVec.getElem_append, BitVec.extractLsb'_append_eq_ite]

theorem scanStatus_fields (s : State) :
    ((scanStatus s).getLsbD 0 = true ↔ s.scan.sphase ≠ .waitHs) ∧
    ((scanStatus s).getLsbD 1 = true ↔ s.scan.sphase = .halted) ∧
    (scanStatus s).extractLsb' 2 2 = sfatalCode s.scan.sfatal ∧
    (scanStatus s).getLsbD 4 = wfull s ∧
    (scanStatus s).extractLsb' 5 3 = s.scan.row ∧
    (scanStatus s).extractLsb' 8 8 = wlevel s ∧
    (scanStatus s).extractLsb' 16 8 = s.scan.lost := by
  obtain ⟨done, halted, rest⟩ := scanWord_fields (scanStatus s) rfl
  exact ⟨by rw [done, bne_iff_ne], by rw [halted, beq_iff_eq], rest⟩

/-- The fields of a word laid out as `TX_STATUS` is (R69), each at its position. -/
theorem txWord_fields {bad level : Byte} {inFlight empty fatal halted : Bool}
    (w : BitVec (8 + 8 + 4 + 1 + 1 + 1 + 1))
    (hw : w = bad ++ level ++ 0#4 ++ BitVec.ofBool inFlight ++ BitVec.ofBool empty ++ BitVec.ofBool fatal
      ++ BitVec.ofBool halted) :
    w.getLsbD 0 = halted ∧ w.getLsbD 1 = fatal ∧ w.getLsbD 2 = empty ∧ w.getLsbD 3 = inFlight ∧
    w.extractLsb' 4 4 = 0#4 ∧ w.extractLsb' 8 8 = level ∧ w.extractLsb' 16 8 = bad := by
  subst hw
  simp [-Nat.reduceAdd, BitVec.getElem_append, BitVec.extractLsb'_append_eq_ite]

theorem txStatus_fields (s : State) :
    ((txStatus s).getLsbD 0 = true ↔ s.usb.tphase = .halted) ∧
    (txStatus s).getLsbD 1 = s.usb.tfatal ∧
    (txStatus s).getLsbD 2 = rempty s ∧
    ((txStatus s).getLsbD 3 = true ↔ s.usb.tphase = .attempt) ∧
    (txStatus s).extractLsb' 4 4 = 0#4 ∧
    (txStatus s).extractLsb' 8 8 = rlevel s ∧
    (txStatus s).extractLsb' 16 8 = s.usb.bad := by
  obtain ⟨halted, fatal, empty, inFlight, rest⟩ := txWord_fields (txStatus s) rfl
  exact ⟨by rw [halted, beq_iff_eq], fatal, empty, by rw [inFlight, beq_iff_eq], rest⟩

/-! ### The words after a fatal (R249) -/

/-- `SCAN_STATUS` of a halted Scanner (R68, R244). -/
theorem scanStatus_of_halted {s : State} (h : s.scan.sphase = .halted) :
    scanStatus s = s.scan.lost ++ wlevel s ++ s.scan.row ++ BitVec.ofBool (wfull s) ++ sfatalCode s.scan.sfatal
      ++ 1#1 ++ 1#1 := by
  rw [scanStatus, h]; rfl

/-- `TX_STATUS` of a Transmitter halted by DECODE (R69, R244). -/
theorem txStatus_of_halted {s : State} (hp : s.usb.tphase = .halted) (hf : s.usb.tfatal = true) :
    txStatus s = s.usb.bad ++ rlevel s ++ 0#4 ++ 0#1 ++ BitVec.ofBool (rempty s) ++ 1#1 ++ 1#1 := by
  rw [txStatus, hp, hf]; rfl

theorem opWaitHs_init {s : State} (hv : s.pins.hsValid = true) (hd : s.pins.hsData = 0#32) :
    opWaitHs s = raiseFatal .init s := by
  rcases opWaitHs_cases s with ⟨no, -⟩ | ⟨-, -, e⟩ | ⟨-, no, -⟩
  · simp [hv] at no
  · exact e
  · exact absurd hd no

theorem nextColumn_not_halted (s : State) : (nextColumn s).scan.sphase ≠ .halted := by
  rcases nextColumn_cases s with ⟨-, e⟩ | ⟨-, e⟩ <;> simp [e]

/-- A sample halts the Scanner by OVERFLOW alone, and in the row it sampled (R166, R241). -/
theorem opSample_halted {s : State} (h : (opSample s).scan.sphase = .halted) :
    (opSample s).scan.sfatal = .overflow ∧ (opSample s).scan.row = s.scan.row := by
  rcases opSample_cases s with e | ⟨k, -, -, e⟩
  · exact absurd (e ▸ h) (nextColumn_not_halted s)
  · rcases keyEdge_cases k (samplePressed s) s with ⟨-, e'⟩ | ⟨-, e'⟩
    · simp [e, e']
    · exact absurd (e' ▸ e ▸ h) (nextColumn_not_halted _)

/-- R249 for INIT, as R242 raises it. -/
theorem step_init_status {s t : State} {c : BitVec 8} (hev : nextEvent s = .edge (.scan true 0#32 c))
    (hp : s.scan.sphase = .waitHs) (hrow : s.scan.row = 0#3) (hlost : s.scan.lost = 0#8) (hs : step s = .next t)
    (hlevel : wlevel t = 0#8) : scanStatus t = 0x00000B#24 := by
  have action : scanAction (takeEvent s) = raiseFatal .init (takeEvent s) := by
    simp [scanAction, hp, opWaitHs_init, hev, eventPins]
  rw [step_scanEdge hev, action] at hs
  obtain rfl := Host.Outcome.next.inj hs
  rw [scanStatus_of_halted (by simp), wfull, hlevel]
  simp [hrow, hlost, sfatalCode, Config.depth]

/-- R249 for OVERFLOW, as R241 raises it. -/
theorem step_overflow_status {s t : State} {v : Bool} {d : BitVec 32} {c : BitVec 8}
    (hev : nextEvent s = .edge (.scan v d c)) (hp : s.scan.sphase = .sample) (hs : step s = .next t)
    (hhalt : t.scan.sphase = .halted) (hlevel : wlevel t = 128#8) :
    scanStatus t = t.scan.lost ++ 0x80#8 ++ s.scan.row ++ 1#1 ++ 0b01#2 ++ 1#1 ++ 1#1 := by
  have action : scanAction (takeEvent s) = opSample (takeEvent s) := by simp [scanAction, hp]
  rw [step_scanEdge hev, action] at hs
  obtain rfl := Host.Outcome.next.inj hs
  obtain ⟨hfatal, hrow⟩ := opSample_halted hhalt
  rw [scanStatus_of_halted hhalt, (wfull_iff _).2 hlevel, hlevel]
  simp [hfatal, hrow, sfatalCode]

/-- R249 for DECODE, as R243 raises it, with the record of R202. -/
theorem step_decode_status {s : State} {a b c : Bool} {x : Byte} (hev : nextEvent s = .edge (.usb a b c))
    (hp : s.usb.tphase = .peek) (hx : peekHead s = some x) (hd : decodeEvt x = none) :
    ∃ t, step s = .next t ∧ diagWord t = 0b110#3 ++ x ∧
      txStatus t = x ++ rlevel t ++ 0#4 ++ 0#1 ++ BitVec.ofBool (rempty t) ++ 1#1 ++ 1#1 := by
  have head : peekHead (clearDiag (takeEvent s)) = some x := hx
  have action : usbAction (clearDiag (takeEvent s)) = opPeek (clearDiag (takeEvent s)) := by simp [usbAction, hp]
  refine ⟨_, step_usbEdge hev, ?_⟩
  rw [action]
  rcases opPeek_cases (clearDiag (takeEvent s)) with ⟨empty, -⟩ | ⟨y, hy, -, e⟩ | ⟨y, k, p, hy, legal, -⟩
  · simp [head] at empty
  · obtain rfl : x = y := Option.some.inj (head.symm.trans hy)
    rw [e, txStatus_of_halted rfl rfl]
    exact ⟨congrArg (· ++ x) (by decide : 1#1 ++ 2#2 = 0b110#3), rfl⟩
  · obtain rfl : x = y := Option.some.inj (head.symm.trans hy)
    simp [hd] at legal

end Sys2Proof.Machine

open Sys2Proof.Machine

/-- Settles O7: half a turn of the ring is the flip of the two top gray bits. -/
theorem fullFlagBinaryAndGray : Obligations.FullFlagBinaryAndGray :=
  ⟨fun s => by rw [wfull_iff_toNat, toNat_wlevel], fun _ h => wfull_iff_gray h, by decide⟩

/-- Settles O8: the flags from the levels, the fields by position, the words of R249 from the actions that halt. -/
theorem emptyFlagAndLevels : Obligations.EmptyFlagAndLevels :=
  ⟨rempty_iff, toNat_wlevel, toNat_rlevel, wfull_iff_toNat, fun _ h => rempty_iff_rlevel h,
    scanStatus_fields,
    txStatus_fields,
    fun _ _ _ => step_init_status, fun _ _ _ _ _ => step_overflow_status, fun _ _ _ _ _ => step_decode_status⟩

end

section
/-! PROOFS. The good-state invariant (`BlockInv`) along every step. A clock edge is its phase's action followed by its
domain's synchroniser shift, and each of the two keeps a good state by itself. -/
namespace Sys2Proof.Machine

/-! ### Distances on the pointer ring (R24, R67) -/

@[simp] theorem ptrDist_self (a : Ptr) : ptrDist a a = 0 := by simp [ptrDist]

/-- Two distances in a row add up as long as they do not go round the ring. -/
theorem ptrDist_add {a b c : Ptr} (h : ptrDist a b + ptrDist b c < 256) :
    ptrDist a c = ptrDist a b + ptrDist b c := by
  simp only [ptrDist] at *
  bv_omega

theorem ptrDist_add₃ {a b c d : Ptr} (h : ptrDist a b + ptrDist b c + ptrDist c d < 256) :
    ptrDist a d = ptrDist a b + ptrDist b c + ptrDist c d := by
  have first : ptrDist a c = ptrDist a b + ptrDist b c := ptrDist_add (by omega)
  rw [← first] at h ⊢
  exact ptrDist_add h

theorem ptrDist_succ_right {a b : Ptr} (h : ptrDist a b < 255) : ptrDist a (b + 1#8) = ptrDist a b + 1 := by
  simp only [ptrDist] at *
  bv_omega

theorem ptrDist_succ_left {a b : Ptr} (h : a ≠ b) : ptrDist (a + 1#8) b + 1 = ptrDist a b := by
  simp only [ptrDist]
  bv_omega

theorem ptrDist_pos {a b : Ptr} (h : a ≠ b) : 0 < ptrDist a b := by
  simp only [ptrDist]
  bv_omega

/-! ### What the pointer order says of the levels and the flags (R189) -/

/-- The true level is the read side's view and what is still on its way to it. -/
theorem QueueInv.toNat_tlevel {s : State} (h : QueueInv s) :
    (tlevel s).toNat = ptrDist s.usb.rbin (gray2bin s.usb.rq2Wgray)
      + ptrDist (gray2bin s.usb.rq2Wgray) (gray2bin s.usb.rq1Wgray)
      + ptrDist (gray2bin s.usb.rq1Wgray) s.scan.wbin := by
  have order : _ ≤ 128 := h.order
  exact ptrDist_add₃ (by omega)

/-- The write side's level is the true level and the reads still on their way to the write side. -/
theorem QueueInv.toNat_wlevel {s : State} (h : QueueInv s) :
    (wlevel s).toNat = ptrDist (gray2bin s.scan.wq2Rgray) (gray2bin s.scan.wq1Rgray)
      + ptrDist (gray2bin s.scan.wq1Rgray) s.usb.rbin + (tlevel s).toNat := by
  have order : _ ≤ 128 := h.order
  have true_level := h.toNat_tlevel
  exact ptrDist_add₃ (by change _ + _ + (tlevel s).toNat < 256; omega)

theorem QueueInv.wlevel_lt_of_not_full {s : State} (h : QueueInv s) (hw : wfull s = false) :
    (wlevel s).toNat < 128 := by
  have order : _ ≤ 128 := h.order
  have not_full : (wlevel s).toNat ≠ 128 := fun e => by simp [(wfull_iff_toNat s).2 e] at hw
  have := h.toNat_wlevel
  have := h.toNat_tlevel
  omega

theorem QueueInv.tlevel_lt_of_not_full {s : State} (h : QueueInv s) (hw : wfull s = false) :
    (tlevel s).toNat < 128 := by
  have := h.wlevel_lt_of_not_full hw
  have := h.toNat_wlevel
  omega

theorem QueueInv.head_seen {s : State} (h : QueueInv s) (hr : rempty s = false) :
    s.usb.rbin ≠ gray2bin s.usb.rq2Wgray := fun e => by
  simp [(rempty_iff_bin h.rgray).2 e] at hr

theorem QueueInv.tlevel_pos_of_not_empty {s : State} (h : QueueInv s) (hr : rempty s = false) :
    0 < (tlevel s).toNat := by
  have := ptrDist_pos (h.head_seen hr)
  have := h.toNat_tlevel
  omega

/-! ### The queue's pointers under PUSH, POP and the synchronisers -/

theorem QueueInv.push {s : State} (h : QueueInv s) (hw : wfull s = false) (b : Byte) : QueueInv (push b s) := by
  have room := h.wlevel_lt_of_not_full hw
  have := h.toNat_wlevel
  have := h.toNat_tlevel
  refine ⟨rfl, h.rgray, ?_⟩
  simp only [push_scan, push_usb]
  rw [ptrDist_succ_right (by omega), Config.depth]
  omega

theorem QueueInv.pop {s : State} (h : QueueInv s) (hr : rempty s = false) : QueueInv (pop s) := by
  have order : _ ≤ 128 := h.order
  have seen := ptrDist_succ_left (h.head_seen hr)
  refine ⟨h.wgray, rfl, ?_⟩
  simp only [pop_scan, pop_usb]
  rw [ptrDist_succ_right (by omega), Config.depth]
  omega

/-- The write side's views move on (R187). -/
theorem QueueInv.syncR2W {s : State} (h : QueueInv s) : QueueInv (syncR2W s s) := by
  have order : _ ≤ 128 := h.order
  refine ⟨h.wgray, h.rgray, ?_⟩
  simp only [syncR2W_scan, syncR2W_usb, h.rgray, gray2bin_bin2gray, ptrDist_self, Config.depth]
  omega

/-- The read side's views move on (R188). -/
theorem QueueInv.syncW2R {s : State} (h : QueueInv s) : QueueInv (syncW2R s s) := by
  have order : _ ≤ 128 := h.order
  have onward : ptrDist s.usb.rbin (gray2bin s.usb.rq1Wgray) = _ :=
    ptrDist_add (b := gray2bin s.usb.rq2Wgray) (by omega)
  refine ⟨h.wgray, h.rgray, ?_⟩
  simp only [syncW2R_scan, syncW2R_usb, h.wgray, gray2bin_bin2gray, ptrDist_self, onward, Config.depth]
  omega

/-- What the read side saw it still sees after its views moved on (R189). -/
theorem QueueInv.syncW2R_not_empty {s : State} (h : QueueInv s) (hr : rempty s = false) :
    rempty (Machine.syncW2R s s) = false := by
  have order : _ ≤ 128 := h.order
  have seen := ptrDist_pos (h.head_seen hr)
  have onward : ptrDist s.usb.rbin (gray2bin s.usb.rq1Wgray) = _ :=
    ptrDist_add (b := gray2bin s.usb.rq2Wgray) (by omega)
  refine Bool.eq_false_iff.2 fun empty => ?_
  have here : s.usb.rbin = gray2bin s.usb.rq1Wgray := (rempty_iff_bin h.syncW2R.rgray).1 empty
  rw [← here, ptrDist_self] at onward
  omega

/-! ### The queue's storage under PUSH and POP -/

/-- ENCODE_EVT of a matrix key is a legal byte (R222). -/
theorem decodeEvt_encodeEvt {k : BitVec 7} (hk : k.toNat < 49) (e : Bool) :
    decodeEvt (encodeEvt k e) = some (k, e) := by
  have key : (encodeEvt k e).extractLsb' 0 7 = k := BitVec.extractLsb'_append_eq_right
  have edge : (encodeEvt k e).getLsbD 7 = e := BitVec.getLsbD_append.trans (by simp)
  rw [decodeEvt, key, edge, if_neg (by rw [Config.nkeys]; omega)]

/-- The slot the next PUSH writes is not one that holds an unconsumed byte (R190). -/
theorem slotOf_unconsumed_ne {s : State} (ht : (tlevel s).toNat < 128) {j : Nat} (hj : j < (tlevel s).toNat) :
    slotOf (s.usb.rbin + BitVec.ofNat 8 j) ≠ slotOf s.scan.wbin := by
  rw [tlevel] at ht hj
  exact (slotOf_ne (by bv_omega) (by bv_omega)).symm

theorem StorageInv.push {s : State} (h : StorageInv s) (ht : (tlevel s).toNat < 128) {b : Byte}
    (hb : (decodeEvt b).isSome = true) : StorageInv (push b s) := by
  refine ⟨Memory.write_wf h.canonical (slotOf_lt _), fun j hj => ?_⟩
  have level : (tlevel (Machine.push b s)).toNat = (tlevel s).toNat + 1 := by
    change (s.scan.wbin + 1#8 - s.usb.rbin).toNat = _
    rw [tlevel] at ht ⊢
    bv_omega
  rw [push_mem, push_usb]
  by_cases last : j = (tlevel s).toNat
  · have slot : s.usb.rbin + BitVec.ofNat 8 j = s.scan.wbin := by rw [last, tlevel]; bv_omega
    exact ⟨b, by rw [slot, Memory.read_write_same], hb⟩
  · have old : j < (tlevel s).toNat := by omega
    rw [Memory.read_write_other _ _ _ _ (slotOf_unconsumed_ne ht old)]
    exact h.filled j old

theorem StorageInv.pop {s : State} (h : StorageInv s) (ht : 0 < (tlevel s).toNat) : StorageInv (pop s) := by
  refine ⟨h.canonical, fun j hj => ?_⟩
  have level : (tlevel (Machine.pop s)).toNat + 1 = (tlevel s).toNat := by
    change (s.scan.wbin - (s.usb.rbin + 1#8)).toNat + 1 = _
    rw [tlevel] at ht ⊢
    bv_omega
  have slot : s.usb.rbin + 1#8 + BitVec.ofNat 8 j = s.usb.rbin + BitVec.ofNat 8 (j + 1) := by bv_omega
  rw [pop_mem, pop_usb, slot]
  exact h.filled (j + 1) (by omega)

/-- The head byte of a queue that is not empty was written by a PUSH and is legal (R191). -/
theorem StorageInv.head {s : State} (h : StorageInv s) (ht : 0 < (tlevel s).toNat) :
    ∃ b, s.mem.read (slotOf s.usb.rbin) = some b ∧ (decodeEvt b).isSome = true := by
  simpa using h.filled 0 ht

/-! ### What the actions do to the queue -/

/-- The two states hold the same queue: storage, pointers and views. -/
structure SameQueue (s t : State) : Prop where
  mem : t.mem = s.mem
  wbin : t.scan.wbin = s.scan.wbin
  wgray : t.scan.wgray = s.scan.wgray
  wq1 : t.scan.wq1Rgray = s.scan.wq1Rgray
  wq2 : t.scan.wq2Rgray = s.scan.wq2Rgray
  rbin : t.usb.rbin = s.usb.rbin
  rgray : t.usb.rgray = s.usb.rgray
  rq1 : t.usb.rq1Wgray = s.usb.rq1Wgray
  rq2 : t.usb.rq2Wgray = s.usb.rq2Wgray

theorem sameQueue_of_eq {s t : State} (mem : t.mem = s.mem) (scan : t.scan = s.scan) (usb : t.usb = s.usb) :
    SameQueue s t := by
  constructor <;> simp only [mem, scan, usb]

theorem sameQueue_refl (s : State) : SameQueue s s := sameQueue_of_eq rfl rfl rfl

theorem SameQueue.trans {s t u : State} (h : SameQueue s t) (h' : SameQueue t u) : SameQueue s u :=
  ⟨h'.mem.trans h.mem, h'.wbin.trans h.wbin, h'.wgray.trans h.wgray, h'.wq1.trans h.wq1, h'.wq2.trans h.wq2,
    h'.rbin.trans h.rbin, h'.rgray.trans h.rgray, h'.rq1.trans h.rq1, h'.rq2.trans h.rq2⟩

theorem QueueInv.of_sameQueue {s t : State} (h : QueueInv s) (e : SameQueue s t) : QueueInv t :=
  ⟨by rw [e.wgray, e.wbin, h.wgray], by rw [e.rgray, e.rbin, h.rgray],
    by rw [e.wq2, e.wq1, e.rbin, e.rq2, e.rq1, e.wbin]; exact h.order⟩

theorem StorageInv.of_sameQueue {s t : State} (h : StorageInv s) (e : SameQueue s t) : StorageInv t :=
  ⟨by rw [e.mem]; exact h.canonical, by rw [tlevel, e.mem, e.wbin, e.rbin]; exact h.filled⟩

theorem nextColumn_sameQueue (s : State) : SameQueue s (nextColumn s) := by
  rcases nextColumn_cases s with ⟨-, e⟩ | ⟨-, e⟩ <;> rw [e] <;> constructor <;> rfl

/-- SAMPLE leaves the queue, or pushes a matrix key's event byte onto a queue that is not full (R166, R182). -/
theorem opSample_queue (s : State) : SameQueue s (opSample s) ∨
    ∃ k p, k.toNat < 49 ∧ wfull s = false ∧ SameQueue (push (encodeEvt k p) s) (opSample s) := by
  rcases opSample_cases s with e | ⟨k, hk, -, e⟩
  · exact .inl (e ▸ nextColumn_sameQueue s)
  · rcases keyEdge_cases k (samplePressed s) s with ⟨-, e'⟩ | ⟨hw, e'⟩
    · exact .inl (by rw [e, e']; constructor <;> rfl)
    · obtain ⟨-, legal⟩ := classify_key hk
      have snapshot : SameQueue (push (encodeEvt k (samplePressed s)) s)
          (push (encodeEvt k (samplePressed s)) (withEdge k (samplePressed s) s)) := by constructor <;> rfl
      exact .inr ⟨k, samplePressed s, legal, hw, by rw [e, e']; exact snapshot.trans (nextColumn_sameQueue _)⟩

/-- A Scanner action leaves the queue, or pushes a legal event byte onto a queue that is not full (R195). -/
theorem scanAction_queue (s : State) : SameQueue s (scanAction s) ∨
    ∃ k p, k.toNat < 49 ∧ wfull s = false ∧ SameQueue (push (encodeEvt k p) s) (scanAction s) := by
  cases hp : s.scan.sphase <;> simp only [scanAction, hp]
  case waitHs => exact .inl (by
    rcases opWaitHs_cases s with ⟨-, e⟩ | ⟨-, -, e⟩ | ⟨-, -, e⟩ <;> rw [e] <;> constructor <;> rfl)
  case strobe => exact .inl (by constructor <;> rfl)
  case settle => exact .inl (by
    rcases opSettle_cases s with ⟨-, e⟩ | ⟨-, e⟩ <;> rw [e] <;> constructor <;> rfl)
  case sample => exact opSample_queue s
  case release => exact .inl (by constructor <;> rfl)
  case halted => exact .inl (sameQueue_refl s)

/-- A Transmitter action leaves the queue, or it is the successful end of an attempt and pops (R195, R203). -/
theorem usbAction_queue (s : State) : SameQueue s (usbAction s) ∨
    s.usb.tphase = .attempt ∧ SameQueue (pop s) (usbAction s) := by
  cases hp : s.usb.tphase <;> simp only [usbAction, hp]
  case service => exact .inl (by simp only [opService]; split <;> constructor <;> rfl)
  case peek => exact .inl (by
    rcases opPeek_cases s with ⟨-, e⟩ | ⟨_, -, -, e⟩ | ⟨_, _, _, -, -, e⟩ <;> rw [e] <;> constructor <;> rfl)
  case attempt =>
    rcases opAttempt_cases s with ⟨-, e⟩ | ⟨-, -, e⟩ | ⟨-, -, e⟩
    · exact .inl (by rw [e]; exact sameQueue_refl s)
    · exact .inr ⟨trivial, by rw [e]; constructor <;> rfl⟩
    · exact .inl (by rw [e]; constructor <;> rfl)
  case halted => exact .inl (sameQueue_refl s)

/-! ### The Scanner's part -/

/-- `ScanInv` speaks of six registers alone. -/
theorem ScanInv.of_registers {s t : State} (h : ScanInv s) (row : t.scan.row = s.scan.row)
    (lines : t.scan.rowN = s.scan.rowN) (phase : t.scan.sphase = s.scan.sphase)
    (settle : t.scan.settle = s.scan.settle) (cnt : t.scan.cnt = s.scan.cnt)
    (fatal : t.scan.sfatal = s.scan.sfatal) : ScanInv t :=
  ⟨by rw [row]; exact h.row, by rw [lines, phase, row]; exact h.lines, by rw [phase, settle]; exact h.settleLength,
    by rw [phase, cnt, settle]; exact h.count, by rw [fatal, phase]; exact h.fatal⟩

/-- A halted Scanner with its code, its rows released, in a row of the matrix (R244). -/
theorem scanInv_of_halted {s : State} (row : s.scan.row ≠ 7#3) (lines : s.scan.rowN = rowsIdle)
    (phase : s.scan.sphase = .halted) (fatal : s.scan.sfatal ≠ .none) : ScanInv s :=
  ⟨row, by rw [lines, phase]; rfl, by rw [phase]; exact nofun, by rw [phase]; exact nofun,
    by simp [phase, fatal]⟩

/-- The settle length is in range for every accepted Handoff (R21). -/
theorem settleLoad_bounds {f : BitVec 32} (hf : f ≠ 0#32) : 3#16 ≤ settleLoad f ∧ settleLoad f ≤ 4297#16 := by
  obtain ⟨lower, upper⟩ := settleCycles_bounds hf
  have exact_length := toNat_settleLoad hf
  constructor <;> rw [BitVec.le_def, exact_length] <;> simp <;> omega

theorem ScanInv.opWaitHs {s : State} (h : ScanInv s) (hp : s.scan.sphase = .waitHs) : ScanInv (opWaitHs s) := by
  rcases opWaitHs_cases s with ⟨-, e⟩ | ⟨-, -, e⟩ | ⟨-, hf, e⟩ <;> rw [e]
  · exact h
  · exact scanInv_of_halted h.row rfl rfl nofun
  · have idle : s.scan.rowN = rowsIdle := by simpa [hp, rowDriven] using h.lines
    have running : s.scan.sfatal = .none := h.fatal.2 (by simp [hp])
    exact ⟨by simp, idle, fun _ => settleLoad_bounds hf, nofun, by simp [running]⟩

theorem ScanInv.opStrobe {s : State} (h : ScanInv s) (hp : s.scan.sphase = .strobe) : ScanInv (opStrobe s) := by
  have length := h.settleLength (by rw [hp]; rfl)
  have running : s.scan.sfatal = .none := h.fatal.2 (by simp [hp])
  refine ⟨h.row, rfl, fun _ => length, fun _ => ⟨?_, BitVec.le_refl _⟩, by simp [Machine.opStrobe, running]⟩
  exact BitVec.le_trans (by decide) length.1

theorem ScanInv.opSettle {s : State} (h : ScanInv s) (hp : s.scan.sphase = .settle) : ScanInv (opSettle s) := by
  have length := h.settleLength (by rw [hp]; rfl)
  have running : s.scan.sfatal = .none := h.fatal.2 (by simp [hp])
  have driven : s.scan.rowN = strobeLine s.scan.row := by simpa [hp, rowDriven] using h.lines
  rcases opSettle_cases s with ⟨-, e⟩ | ⟨more, e⟩ <;> rw [e]
  · exact ⟨h.row, driven, fun _ => length, nofun, by simp [running]⟩
  · obtain ⟨-, upper⟩ := h.count hp
    refine ⟨h.row, by simpa [hp, rowDriven] using driven, fun _ => length, fun _ => ?_, by simp [running, hp]⟩
    simp only [State.withScan_scan]
    constructor <;> bv_omega

theorem ScanInv.nextColumn {s : State} (h : ScanInv s) (hp : s.scan.sphase = .sample) :
    ScanInv (nextColumn s) := by
  have length := h.settleLength (by rw [hp]; rfl)
  have running : s.scan.sfatal = .none := h.fatal.2 (by simp [hp])
  have driven : s.scan.rowN = strobeLine s.scan.row := by simpa [hp, rowDriven] using h.lines
  rcases nextColumn_cases s with ⟨-, e⟩ | ⟨-, e⟩ <;> rw [e]
  · exact ⟨h.row, driven, fun _ => length, nofun, by simp [running]⟩
  · refine ⟨h.row, driven, fun _ => length, fun _ => ⟨?_, BitVec.le_refl _⟩, by simp [running]⟩
    exact BitVec.le_trans (by decide) length.1

theorem ScanInv.opSample {s : State} (h : ScanInv s) (hp : s.scan.sphase = .sample) : ScanInv (opSample s) := by
  rcases opSample_cases s with e | ⟨k, -, -, e⟩ <;> rw [e]
  · exact h.nextColumn hp
  · rcases keyEdge_cases k (samplePressed s) s with ⟨-, e'⟩ | ⟨-, e'⟩ <;> rw [e']
    · exact scanInv_of_halted h.row rfl rfl nofun
    · exact ScanInv.nextColumn (h.of_registers rfl rfl rfl rfl rfl rfl) hp

theorem ScanInv.opRelease {s : State} (h : ScanInv s) (hp : s.scan.sphase = .release) : ScanInv (opRelease s) := by
  have length := h.settleLength (by rw [hp]; rfl)
  have running : s.scan.sfatal = .none := h.fatal.2 (by simp [hp])
  have row := h.row
  refine ⟨?_, rfl, fun _ => length, nofun, by simp [Machine.opRelease, running]⟩
  change (if s.scan.row = 6#3 then 0#3 else s.scan.row + 1#3) ≠ 7#3
  split
  · decide
  · bv_omega

/-- Every phase of the Scanner keeps its part of a good state. -/
theorem ScanInv.scanAction {s : State} (h : ScanInv s) : ScanInv (scanAction s) := by
  cases hp : s.scan.sphase <;> simp only [Machine.scanAction, hp]
  case waitHs => exact h.opWaitHs hp
  case strobe => exact h.opStrobe hp
  case settle => exact h.opSettle hp
  case sample => exact h.opSample hp
  case release => exact h.opRelease hp
  case halted => exact h

/-! ### The Transmitter's part -/

/-- `TxInv` speaks of the USB registers and of the head slot. -/
theorem TxInv.of_head {s t : State} (h : TxInv s) (husb : t.usb = s.usb)
    (hmem : s.usb.tphase = .attempt → t.mem.read (slotOf s.usb.rbin) = s.mem.read (slotOf s.usb.rbin)) : TxInv t := by
  refine ⟨by rw [husb]; exact h.running, fun hp => ?_⟩
  rw [husb] at hp
  obtain ⟨seen, held, packet⟩ := h.inFlight hp
  rw [rempty, txLanes, husb, hmem hp]
  exact ⟨seen, held, packet⟩

/-- Outside ATTEMPT there is nothing in flight to speak of. -/
theorem txInv_of_idle {s : State} (hf : s.usb.tfatal = false) (hp : s.usb.tphase = .service ∨ s.usb.tphase = .peek) :
    TxInv s := by
  rcases hp with hp | hp <;> exact ⟨⟨hf, by simp [hp]⟩, by simp [hp]⟩

theorem TxInv.push {s : State} (h : TxInv s) (hq : QueueInv s) (hw : wfull s = false) (b : Byte) :
    TxInv (push b s) := by
  refine h.of_head rfl fun hp => ?_
  obtain ⟨seen, -⟩ := h.inFlight hp
  have other : slotOf s.usb.rbin ≠ slotOf s.scan.wbin := by
    simpa using slotOf_unconsumed_ne (hq.tlevel_lt_of_not_full hw) (hq.tlevel_pos_of_not_empty seen)
  rw [push_mem, Memory.read_write_other _ _ _ _ other]

theorem TxInv.syncW2R {s : State} (h : TxInv s) (hq : QueueInv s) : TxInv (syncW2R s s) :=
  ⟨h.running, fun hp =>
    let ⟨seen, held, packet⟩ := h.inFlight hp
    ⟨hq.syncW2R_not_empty seen, held, packet⟩⟩

/-- PEEK of a good state ends the iteration or starts the attempt of the head byte; no reserved byte is there to be
found (R202, R253). -/
theorem TxInv.opPeek {s : State} (h : TxInv s) (hq : QueueInv s) (hm : StorageInv s) : TxInv (opPeek s) := by
  obtain ⟨running, -⟩ := h.running
  have head : ∀ b, peekHead s = some b →
      rempty s = false ∧ s.mem.read (slotOf s.usb.rbin) = some b ∧ (decodeEvt b).isSome = true := fun b hb => by
    rcases peekHead_cases s with ⟨-, e⟩ | ⟨seen, e⟩
    · simp [e] at hb
    · obtain ⟨x, stored, legal⟩ := hm.head (hq.tlevel_pos_of_not_empty seen)
      obtain rfl : x = b := by simpa [e, readSlot, stored] using hb
      exact ⟨seen, stored, legal⟩
  rcases opPeek_cases s with ⟨-, e⟩ | ⟨b, hb, reserved, -⟩ | ⟨b, k, p, hb, hd, e⟩
  · rw [e]; exact txInv_of_idle running (.inl rfl)
  · obtain ⟨-, -, legal⟩ := head b hb
    simp [reserved] at legal
  · obtain ⟨seen, stored, -⟩ := head b hb
    rw [e]
    exact ⟨⟨running, nofun⟩, fun _ => ⟨seen, stored, k, p, hd, rfl⟩⟩

/-- Every phase of the Transmitter keeps its part of a good state. -/
theorem TxInv.usbAction {s : State} (h : TxInv s) (hq : QueueInv s) (hm : StorageInv s) : TxInv (usbAction s) := by
  obtain ⟨running, not_halted⟩ := h.running
  cases hp : s.usb.tphase <;> simp only [Machine.usbAction, hp]
  case service =>
    simp only [opService]
    split
    · exact txInv_of_idle running (.inr rfl)
    · exact h
  case peek => exact h.opPeek hq hm
  case attempt =>
    rcases opAttempt_cases s with ⟨-, e⟩ | ⟨-, -, e⟩ | ⟨-, -, e⟩ <;> rw [e]
    · exact h
    · exact txInv_of_idle running (.inl rfl)
    · exact txInv_of_idle running (.inl rfl)
  case halted => exact absurd hp not_halted

/-! ### A good state along a step -/

/-- `BlockInv` speaks of both domains, the storage and the scenario. -/
theorem BlockInv.of_eq {s t : State} (h : BlockInv s) (composed : Composed t) (scan : t.scan = s.scan)
    (mem : t.mem = s.mem) (usb : t.usb = s.usb) : BlockInv t :=
  ⟨composed, h.queue.of_sameQueue (sameQueue_of_eq mem scan usb), h.storage.of_sameQueue (sameQueue_of_eq mem scan usb),
    h.tx.of_head usb fun _ => by rw [mem], by apply h.scanner.of_registers <;> rw [scan]⟩

theorem BlockInv.takeEvent {s : State} (h : BlockInv s) : BlockInv (takeEvent s) :=
  h.of_eq (fun e he => h.composed e (List.mem_of_mem_tail he)) rfl rfl rfl

theorem BlockInv.clearDiag {s : State} (h : BlockInv s) : BlockInv (clearDiag s) :=
  have same : SameQueue s (Machine.clearDiag s) := by constructor <;> rfl
  ⟨h.composed, h.queue.of_sameQueue same, h.storage.of_sameQueue same, ⟨h.tx.running, h.tx.inFlight⟩,
    h.scanner.of_registers rfl rfl rfl rfl rfl rfl⟩

theorem BlockInv.scanAction {s : State} (h : BlockInv s) : BlockInv (scanAction s) := by
  have frame := scanAction_frame s
  have composed : Composed (Machine.scanAction s) := by rw [Composed, frame.events]; exact h.composed
  rcases scanAction_queue s with same | ⟨k, p, hk, hw, same⟩
  · exact ⟨composed, h.queue.of_sameQueue same, h.storage.of_sameQueue same,
      h.tx.of_head frame.usb fun _ => by rw [same.mem], h.scanner.scanAction⟩
  · have legal : (decodeEvt (encodeEvt k p)).isSome = true := by rw [decodeEvt_encodeEvt hk]; rfl
    have pushed := h.storage.push (h.queue.tlevel_lt_of_not_full hw) legal
    exact ⟨composed, (h.queue.push hw _).of_sameQueue same, pushed.of_sameQueue same,
      (h.tx.push h.queue hw _).of_head frame.usb fun _ => by rw [same.mem], h.scanner.scanAction⟩

theorem BlockInv.usbAction {s : State} (h : BlockInv s) : BlockInv (usbAction s) := by
  have frame := usbAction_frame s
  have composed : Composed (Machine.usbAction s) := by rw [Composed, frame.events]; exact h.composed
  have tx := h.tx.usbAction h.queue h.storage
  have scanner : ScanInv (Machine.usbAction s) := by apply h.scanner.of_registers <;> rw [frame.scan]
  rcases usbAction_queue s with same | ⟨hp, same⟩
  · exact ⟨composed, h.queue.of_sameQueue same, h.storage.of_sameQueue same, tx, scanner⟩
  · obtain ⟨seen, -⟩ := h.tx.inFlight hp
    have popped := h.storage.pop (h.queue.tlevel_pos_of_not_empty seen)
    exact ⟨composed, (h.queue.pop seen).of_sameQueue same, popped.of_sameQueue same, tx, scanner⟩

theorem BlockInv.syncR2W {s : State} (h : BlockInv s) : BlockInv (syncR2W s s) :=
  ⟨h.composed, h.queue.syncR2W, ⟨h.storage.canonical, h.storage.filled⟩, h.tx.of_head rfl fun _ => rfl,
    h.scanner.of_registers rfl rfl rfl rfl rfl rfl⟩

theorem BlockInv.syncW2R {s : State} (h : BlockInv s) : BlockInv (syncW2R s s) :=
  ⟨h.composed, h.queue.syncW2R, ⟨h.storage.canonical, h.storage.filled⟩, h.tx.syncW2R h.queue,
    h.scanner.of_registers rfl rfl rfl rfl rfl rfl⟩

/-- A Scanner action writes nothing its edge's synchroniser reads, so the shift may as well read after it. -/
theorem syncR2W_scanAction (s : State) : syncR2W s (scanAction s) = syncR2W (scanAction s) (scanAction s) := by
  have frame := scanAction_frame s
  simp only [syncR2W, frame.wq1, frame.usb]

/-- A Transmitter action writes nothing its edge's synchroniser reads, nor does the clear before it. -/
theorem syncW2R_usbAction (s : State) :
    syncW2R s (usbAction (clearDiag s)) = syncW2R (usbAction (clearDiag s)) (usbAction (clearDiag s)) := by
  have frame := usbAction_frame (clearDiag s)
  simp only [syncW2R, frame.rq1, frame.scan, clearDiag_usb, clearDiag_scan]

/-- The reset state is good (R271). -/
theorem blockInv_reset : BlockInv State.reset :=
  ⟨nofun, ⟨by decide, by decide, by decide⟩, ⟨reset_mem_wf, fun j hj => absurd hj (Nat.not_lt_zero j)⟩,
    txInv_of_idle rfl (.inl rfl), ⟨by decide, by decide, by decide, by decide, by decide⟩⟩

/-- Reset makes a good state of any composed one (R270). -/
theorem blockInv_applyReset {s : State} (h : Composed s) : BlockInv (applyReset s) :=
  blockInv_reset.of_eq h rfl rfl rfl

/-- The next event of the composed block is an edge (R180). -/
theorem Composed.nextEvent {s : State} (h : Composed s) : ∃ e, nextEvent s = .edge e := by
  unfold Machine.nextEvent
  split
  · next ev rest hev =>
    have edge := h ev (by simp [hev])
    cases ev with
    | edge e => exact ⟨e, rfl⟩
    | port f w => simp [eventIsEdge] at edge
  · exact ⟨_, rfl⟩

end Sys2Proof.Machine

open Sys2Proof.Machine

/-- Settles O45: a step is reset, or an action and a synchroniser shift, each of which keeps a good state. -/
theorem everyStepKeepsAGoodState : Obligations.EveryStepKeepsAGoodState := by
  intro s t h hs
  obtain ⟨e, hev⟩ := h.composed.nextEvent
  cases e with
  | scan v d c =>
    rw [step_scanEdge hev, syncR2W_scanAction] at hs
    exact Host.Outcome.next.inj hs ▸ h.takeEvent.scanAction.syncR2W
  | usb a b c =>
    rw [step_usbEdge hev, syncW2R_usbAction] at hs
    exact Host.Outcome.next.inj hs ▸ h.takeEvent.clearDiag.usbAction.syncW2R
  | reset =>
    rw [step_resetEdge hev] at hs
    exact Host.Outcome.next.inj hs ▸ blockInv_applyReset h.takeEvent.composed

end

section
/-! PROOFS. The queue as a store of bytes: what PUSH and POP do to the slots and to the unconsumed bytes, oldest first
(42_channel.md R91, R181, R185), and which of the two each operation does, as its push and pop strobes say. -/
namespace Sys2Proof.Machine

/-! ### The slots under PUSH -/

/-- The pushed byte reads back from the tail slot (R181). -/
@[simp] theorem readSlot_push_same (b : Byte) (s : State) : readSlot (push b s) (slotOf s.scan.wbin) = b := by
  simp [readSlot]

/-- PUSH stores to the tail slot alone (R181). -/
theorem readSlot_push_other (b : Byte) {s : State} {a : Nat} (h : a ≠ slotOf s.scan.wbin) :
    readSlot (push b s) a = readSlot s a := by
  simp [readSlot, Memory.read_write_other _ _ _ _ h]

/-! ### The unconsumed bytes under PUSH and POP -/

theorem toNat_tlevel_push (b : Byte) {s : State} (room : (tlevel s).toNat < 128) :
    (tlevel (push b s)).toNat = (tlevel s).toNat + 1 := by
  simp only [tlevel, push_scan, push_usb] at room ⊢
  bv_omega

theorem toNat_tlevel_pop {s : State} (nonempty : 0 < (tlevel s).toNat) :
    (tlevel s).toNat = (tlevel (pop s)).toNat + 1 := by
  simp only [tlevel, pop_scan, pop_usb] at nonempty ⊢
  bv_omega

/-- PUSH with room appends its byte: the old slots are other slots, and the new last one is the tail slot (R91). -/
theorem queueBytes_push (b : Byte) {s : State} (room : (tlevel s).toNat < 128) :
    queueBytes (push b s) = queueBytes s ++ [b] := by
  have tail : s.usb.rbin + BitVec.ofNat 8 (tlevel s).toNat = s.scan.wbin := by
    rw [tlevel]
    bv_omega
  have old : ∀ j ∈ List.range (tlevel s).toNat,
      readSlot (push b s) (slotOf (s.usb.rbin + BitVec.ofNat 8 j)) =
        readSlot s (slotOf (s.usb.rbin + BitVec.ofNat 8 j)) :=
    fun j hj => readSlot_push_other b (slotOf_unconsumed_ne room (List.mem_range.1 hj))
  rw [queueBytes, toNat_tlevel_push b room, List.range_succ, List.map_append, push_usb, List.map_congr_left old,
    List.map_singleton, tail, readSlot_push_same, queueBytes]

/-- POP of a queue that is not empty takes its oldest byte (R91, R185). -/
theorem queueBytes_pop {s : State} (nonempty : 0 < (tlevel s).toNat) :
    queueBytes (pop s) = (queueBytes s).tail := by
  have next : ∀ j, s.usb.rbin + BitVec.ofNat 8 (j + 1) = s.usb.rbin + 1#8 + BitVec.ofNat 8 j := fun j => by bv_omega
  rw [queueBytes, queueBytes, toNat_tlevel_pop nonempty, List.range_succ_eq_map, List.map_cons, List.tail_cons,
    List.map_map]
  exact List.map_congr_left fun j _ => congrArg (readSlot s ∘ slotOf) (next j).symm

/-! ### Which of the two an operation does -/

/-- The two states store the same bytes, between the same pointers, and show the same push and pop strobes. -/
structure SameFifo (s t : State) : Prop where
  mem : t.mem = s.mem
  resets : t.resets = s.resets
  wbin : t.scan.wbin = s.scan.wbin
  rbin : t.usb.rbin = s.usb.rbin
  push : t.obs.push = s.obs.push
  pop : t.obs.pop = s.obs.pop

theorem sameFifo_refl (s : State) : SameFifo s s := ⟨rfl, rfl, rfl, rfl, rfl, rfl⟩

theorem SameFifo.trans {s t u : State} (h : SameFifo s t) (h' : SameFifo t u) : SameFifo s u :=
  ⟨h'.mem.trans h.mem, h'.resets.trans h.resets, h'.wbin.trans h.wbin, h'.rbin.trans h.rbin, h'.push.trans h.push,
    h'.pop.trans h.pop⟩

theorem SameFifo.readSlot {s t : State} (h : SameFifo s t) (a : Nat) : readSlot t a = readSlot s a := by
  simp only [Machine.readSlot, h.mem, h.resets]

theorem SameFifo.queueBytes {s t : State} (h : SameFifo s t) : queueBytes t = queueBytes s := by
  simp only [Machine.queueBytes, tlevel, h.wbin, h.rbin, h.readSlot]

theorem nextColumn_sameFifo (s : State) : SameFifo s (nextColumn s) := by
  rcases nextColumn_cases s with ⟨-, e⟩ | ⟨-, e⟩ <;> rw [e] <;> constructor <;> rfl

/-- The guarded PUSH stores nothing, or it pushes its byte onto a queue that is not full (R182). -/
theorem tryPush_fifo (b : Byte) (s : State) : SameFifo s (tryPush b s) ∨
    wfull s = false ∧ SameFifo (push b s) (tryPush b s) := by
  rcases tryPush_cases b s with ⟨-, e⟩ | ⟨hw, e⟩ <;> rw [e]
  · exact .inl (sameFifo_refl s)
  · exact .inr ⟨hw, sameFifo_refl _⟩

/-- SAMPLE stores nothing, or it pushes one byte onto a queue that is not full (R166). -/
theorem opSample_fifo (s : State) : SameFifo s (opSample s) ∨
    ∃ b, wfull s = false ∧ SameFifo (push b s) (opSample s) := by
  rcases opSample_cases s with e | ⟨k, -, -, e⟩ <;> rw [e]
  · exact .inl (nextColumn_sameFifo s)
  · rcases keyEdge_cases k (samplePressed s) s with ⟨-, e'⟩ | ⟨hw, e'⟩ <;> rw [e']
    · exact .inl (by constructor <;> rfl)
    · have snapshot : SameFifo (push (encodeEvt k (samplePressed s)) s)
          (push (encodeEvt k (samplePressed s)) (withEdge k (samplePressed s) s)) := by constructor <;> rfl
      exact .inr ⟨_, hw, snapshot.trans (nextColumn_sameFifo _)⟩

/-- A Scanner action stores nothing, or it pushes one byte onto a queue that is not full (R195). -/
theorem scanAction_fifo (s : State) : SameFifo s (scanAction s) ∨
    ∃ b, wfull s = false ∧ SameFifo (push b s) (scanAction s) := by
  cases hp : s.scan.sphase <;> simp only [scanAction, hp]
  case waitHs => exact .inl (by
    rcases opWaitHs_cases s with ⟨-, e⟩ | ⟨-, -, e⟩ | ⟨-, -, e⟩ <;> rw [e] <;> constructor <;> rfl)
  case strobe => exact .inl (by constructor <;> rfl)
  case settle => exact .inl (by
    rcases opSettle_cases s with ⟨-, e⟩ | ⟨-, e⟩ <;> rw [e] <;> constructor <;> rfl)
  case sample => exact opSample_fifo s
  case release => exact .inl (by constructor <;> rfl)
  case halted => exact .inl (sameFifo_refl s)

/-- A Transmitter action takes nothing, or it is the successful end of an attempt and pops (R195, R203). -/
theorem usbAction_fifo (s : State) : SameFifo s (usbAction s) ∨
    s.usb.tphase = .attempt ∧ SameFifo (pop s) (usbAction s) := by
  cases hp : s.usb.tphase <;> simp only [usbAction, hp]
  case service => exact .inl (by simp only [opService]; split <;> constructor <;> rfl)
  case peek => exact .inl (by
    rcases opPeek_cases s with ⟨-, e⟩ | ⟨_, -, -, e⟩ | ⟨_, _, _, -, -, e⟩ <;> rw [e] <;> constructor <;> rfl)
  case attempt =>
    rcases opAttempt_cases s with ⟨-, e⟩ | ⟨-, -, e⟩ | ⟨-, -, e⟩
    · exact .inl (by rw [e]; exact sameFifo_refl s)
    · exact .inr ⟨trivial, by rw [e]; constructor <;> rfl⟩
    · exact .inl (by rw [e]; constructor <;> rfl)
  case halted => exact .inl (sameFifo_refl s)

/-! ### The first-in first-out list along an action (R91) -/

/-- From `s` to `t` the unconsumed bytes lose the oldest if `t` shows a pop, and gain at the end the byte it shows
pushed. -/
def FifoStep (s t : State) : Prop :=
  queueBytes t = (if t.obs.pop then (queueBytes s).tail else queueBytes s) ++ t.obs.push.toList

theorem SameFifo.fifoStep {s t : State} (h : SameFifo s t) (quiet : s.obs = Obs.quiet) : FifoStep s t := by
  simp [FifoStep, h.queueBytes, h.push, h.pop, quiet, Obs.quiet]

theorem fifoStep_of_push {b : Byte} {s t : State} (h : SameFifo (push b s) t) (quiet : s.obs = Obs.quiet)
    (room : (tlevel s).toNat < 128) : FifoStep s t := by
  simp [FifoStep, h.queueBytes, h.push, h.pop, quiet, Obs.quiet, queueBytes_push b room]

theorem fifoStep_of_pop {s t : State} (h : SameFifo (pop s) t) (quiet : s.obs = Obs.quiet)
    (nonempty : 0 < (tlevel s).toNat) : FifoStep s t := by
  simp [FifoStep, h.queueBytes, h.push, h.pop, quiet, Obs.quiet, queueBytes_pop nonempty]

/-- A push of a Scanner action finds room, since the write side's level is no less than the true one (R189). -/
theorem BlockInv.fifoStep_scanAction {s : State} (h : BlockInv s) (quiet : s.obs = Obs.quiet) :
    FifoStep s (Machine.scanAction s) := by
  rcases scanAction_fifo s with same | ⟨b, hw, pushed⟩
  · exact same.fifoStep quiet
  · exact fifoStep_of_push pushed quiet (h.queue.tlevel_lt_of_not_full hw)

/-- A pop of a Transmitter action finds a byte, since an attempt is of the head byte (R186). -/
theorem BlockInv.fifoStep_usbAction {s : State} (h : BlockInv s) (quiet : s.obs = Obs.quiet) :
    FifoStep s (Machine.usbAction s) := by
  rcases usbAction_fifo s with same | ⟨hp, popped⟩
  · exact same.fifoStep quiet
  · obtain ⟨seen, -⟩ := h.tx.inFlight hp
    exact fifoStep_of_pop popped quiet (h.queue.tlevel_pos_of_not_empty seen)

/-- The bytes and strobes of a step are those of its action: taking the event, the clear of `diag_valid` and the
synchroniser shifts leave the storage and the binary pointers. -/
theorem FifoStep.of_sameFifo {s s' t t' : State} (h : FifoStep s' t') (before : queueBytes s' = queueBytes s)
    (after : SameFifo t' t) : FifoStep s t := by
  rw [FifoStep, after.queueBytes, after.push, after.pop, ← before]
  exact h

theorem queueBytes_takeEvent (s : State) : queueBytes (takeEvent s) = queueBytes s := rfl

theorem queueBytes_clearDiag (s : State) : queueBytes (clearDiag s) = queueBytes s := rfl

theorem syncR2W_sameFifo (pre s : State) : SameFifo s (syncR2W pre s) := by constructor <;> rfl

theorem syncW2R_sameFifo (pre s : State) : SameFifo s (syncW2R pre s) := by constructor <;> rfl

/-! ### The slots a SAMPLE or a PUSH stores to (R166, R181) -/

/-- `t` is `s` with nothing stored, or with one byte pushed. -/
def StoresAtMostOne (s t : State) : Prop := SameFifo s t ∨ ∃ b, SameFifo (push b s) t

/-- SAMPLE forms and pushes a byte of its own, PUSH pushes its operand; each only when the queue is not full. -/
theorem storesAtMostOne_of_exec {i : Instr} {s t : State} (hi : i = .sample ∨ ∃ d, i = .push d)
    (h : exec i s = .next t) : StoresAtMostOne s t := by
  rcases hi with rfl | ⟨d, rfl⟩
  · have answer : exec .sample s = .next (opSample s) := rfl
    obtain rfl : opSample s = t := Host.Outcome.next.inj (answer.symm.trans h)
    exact (opSample_fifo s).imp id fun ⟨b, _, pushed⟩ => ⟨b, pushed⟩
  · have answer : exec (.push d) s = .next (tryPush d s) := rfl
    obtain rfl : tryPush d s = t := Host.Outcome.next.inj (answer.symm.trans h)
    exact (tryPush_fifo d s).imp id fun ⟨_, pushed⟩ => ⟨d, pushed⟩

/-- After a PUSH the write pointer is another one. -/
theorem SameFifo.wbin_ne_of_push {b : Byte} {s t : State} (h : SameFifo (Machine.push b s) t) :
    t.scan.wbin ≠ s.scan.wbin := by
  rw [h.wbin, push_scan]
  bv_omega

end Sys2Proof.Machine

open Sys2Proof.Machine

/-- Settles O49: a step but reset is one domain's action between updates that leave the bytes, and an action keeps the
bytes, pushes one with room for it, or pops one that is there. -/
theorem queueIsFirstInFirstOut : Obligations.QueueIsFirstInFirstOut := by
  intro s t h not_reset hs
  obtain ⟨e, hev⟩ := h.composed.nextEvent
  cases e with
  | scan v d c =>
    obtain rfl := Host.Outcome.next.inj ((step_scanEdge hev).symm.trans hs)
    exact (h.takeEvent.fifoStep_scanAction rfl).of_sameFifo (queueBytes_takeEvent s) (syncR2W_sameFifo _ _)
  | usb a b c =>
    obtain rfl := Host.Outcome.next.inj ((step_usbEdge hev).symm.trans hs)
    exact (h.takeEvent.clearDiag.fifoStep_usbAction rfl).of_sameFifo
      ((queueBytes_clearDiag _).trans (queueBytes_takeEvent s)) (syncW2R_sameFifo _ _)
  | reset => exact absurd hev not_reset

/-- Settles O17: nothing is stored, and the pointer stands, or one byte goes to the tail slot, and the pointer moves. -/
theorem pushingOperationsStoreOneSlot : Obligations.PushingOperationsStoreOneSlot := by
  intro i s t hi h
  rw [← slotOf_eq]
  rcases storesAtMostOne_of_exec hi h with same | ⟨b, pushed⟩
  · exact ⟨fun a _ => same.readSlot a, fun _ => same.readSlot, fun _ moved _ => absurd same.wbin moved⟩
  · refine ⟨fun a ha => (pushed.readSlot a).trans (readSlot_push_other b ha),
      fun stands => absurd stands pushed.wbin_ne_of_push, fun b' _ shown => ?_⟩
    obtain rfl : b = b' := Option.some.inj (pushed.push.symm.trans shown)
    exact (pushed.readSlot _).trans (readSlot_push_same b s)

end

section
/-! PROOFS. The decoder and the encoder (30_encoding.md R110 to R122, R126, R127). A code word of a format is its fields
laid out side by side, and each wide format's decoder is said once on the laid-out word: the round trip, its converse
and the reserved codes are all read off these equations. -/
namespace Sys2Proof
open Laws

/-! ### Code words as fields laid out side by side -/

/-- A field of a zero-extended word is a field of the word. -/
theorem field_setWidth {n lo len : Nat} (x : BitVec n) (h : lo + len ≤ 40) :
    field (x.setWidth 40) lo len = x.extractLsb' lo len :=
  BitVec.extractLsb'_setWidth_of_le h

/-- A single bit of a zero-extended word, as the field of width 1. -/
theorem getLsbD_setWidth_eq_field {n lo : Nat} (x : BitVec n) (h : lo + 1 ≤ 40) :
    (x.setWidth 40 : Code).getLsbD lo = (x.extractLsb' lo 1 == 1#1) := by
  rw [BitVec.getLsbD_eq_extractLsb', BitVec.extractLsb'_setWidth_of_le h]

theorem append_inj {m n : Nat} {a b : BitVec m} {x y : BitVec n} : a ++ x = b ++ y ↔ a = b ∧ x = y := by
  refine ⟨fun h => ⟨?_, ?_⟩, by rintro ⟨rfl, rfl⟩; rfl⟩
  · simpa only [BitVec.extractLsb'_append_eq_left] using congrArg (BitVec.extractLsb' n m) h
  · simpa only [BitVec.extractLsb'_append_eq_right] using congrArg (BitVec.extractLsb' 0 n) h

/-- Zero-extension loses nothing. -/
theorem setWidth_inj {n : Nat} (hn : n ≤ 40) {x y : BitVec n} : (x.setWidth 40 : Code) = y.setWidth 40 ↔ x = y := by
  refine ⟨fun h => ?_, congrArg _⟩
  simpa [BitVec.setWidth_setWidth_of_le _ hn] using congrArg (BitVec.setWidth n) h

/-- A code word with nothing above bit `n` is `n` bits zero-extended (R110). -/
theorem exists_setWidth {n : Nat} {w : Code} (h : w >>> n = 0#40) :
    ∃ x : BitVec n, w = x.setWidth 40 := by
  refine ⟨w.setWidth n, BitVec.eq_of_getLsbD_eq fun i hi => ?_⟩
  have above := congrArg (BitVec.getLsbD · (i - n)) h
  simp only [BitVec.getLsbD_ushiftRight, BitVec.getLsbD_zero] at above
  by_cases low : i < n
  · simp [low, hi]
  · rw [show n + (i - n) = i by omega] at above
    simp [low, above]

/-- A word of `m + n` bits is a field of `m` bits above one of `n`. -/
theorem exists_append (m n : Nat) (x : BitVec (m + n)) : ∃ (a : BitVec m) (b : BitVec n), x = a ++ b :=
  ⟨_, _, BitVec.extractLsb'_append_extractLsb'.symm⟩

/-! ### Each wide format's decoder on its layout -/

/-- A word with a bit above its format's width is no word of the format (R110, R128). -/
theorem decode_tooWide {f : Format} {w : Code} (h : ¬ w >>> f.width = 0#40) : decode f w = .error .tooWide := if_neg h

/-- WPORT is `(we, wdata)` (R120). -/
theorem decode_wport (we : BitVec 1) (d : Byte) :
    decode .wport ((we ++ d).setWidth 40) = if we = 1#1 then .ok (.push d) else .error .idle := by
  have fits : decode .wport _ = decodeWport _ := if_pos (shiftRight_setWidth_eq_zero (we ++ d))
  rw [fits, decodeWport, getLsbD_setWidth_eq_field _ (by decide), field_setWidth _ (by decide),
    BitVec.extractLsb'_append_eq_left, BitVec.extractLsb'_append_eq_right]
  simp only [beq_iff_eq]

/-- EVT8 is `(pressed, K)`, and only K in 0..48 is a key (R111, R112). -/
theorem decode_evt8 (e : BitVec 1) (k : BitVec 7) :
    decode .evt8 ((e ++ k).setWidth 40) =
      if legalKey k then if e = 1#1 then .ok (.evtPress k) else .ok (.evtRelease k)
      else .error .reservedKeyIndex := by
  have fits : decode .evt8 _ = decodeEvt8 _ := if_pos (shiftRight_setWidth_eq_zero (e ++ k))
  rw [fits, decodeEvt8, getLsbD_setWidth_eq_field _ (by decide), field_setWidth _ (by decide),
    BitVec.extractLsb'_append_eq_left, BitVec.extractLsb'_append_eq_right]
  simp only [beq_iff_eq]

/-- HS33 is `(hs_valid, hs_data)` (R121). -/
theorem decode_hs33 (v : BitVec 1) (f : BitVec 32) :
    decode .hs33 ((v ++ f).setWidth 40) = if v = 1#1 then .ok (.handoff f) else .error .idle := by
  have fits : decode .hs33 _ = decodeHs33 _ := if_pos (shiftRight_setWidth_eq_zero (v ++ f))
  rw [fits, decodeHs33, getLsbD_setWidth_eq_field _ (by decide), field_setWidth _ (by decide),
    BitVec.extractLsb'_append_eq_left, BitVec.extractLsb'_append_eq_right]
  simp only [beq_iff_eq]

/-- DIAG11 is `(diag_valid, code, byte)`, and code 3 is reserved (R122). -/
theorem decode_diag11 (v : BitVec 1) (c : BitVec 2) (b : Byte) :
    decode .diag11 ((v ++ c ++ b).setWidth 40) =
      if v = 1#1 then
        if c = 0#2 then .ok (.diagSent b) else if c = 1#2 then .ok (.diagSendFail b)
        else if c = 2#2 then .ok (.diagFatalDecode b) else .error .reservedDiagCode
      else .error .idle := by
  have codes : c = 0#2 ∨ c = 1#2 ∨ c = 2#2 ∨ c = 3#2 := by decide +revert
  have fits : decode .diag11 _ = decodeDiag11 _ := if_pos (shiftRight_setWidth_eq_zero (v ++ c ++ b))
  have valid : (v ++ c ++ b).extractLsb' 10 1 = v :=
    (BitVec.extractLsb'_append_eq_of_le (by decide)).trans BitVec.extractLsb'_append_eq_left
  have code : (v ++ c ++ b).extractLsb' 8 2 = c :=
    (BitVec.extractLsb'_append_eq_of_le (by decide)).trans BitVec.extractLsb'_append_eq_right
  rw [fits, decodeDiag11, getLsbD_setWidth_eq_field _ (by decide), field_setWidth _ (by decide),
    field_setWidth _ (by decide), valid, code, BitVec.extractLsb'_append_eq_right]
  simp only [beq_iff_eq]
  rcases codes with rfl | rfl | rfl | rfl <;> rfl

/-- The mask of the two USBMIDI4 rows keeps every field but the channel and the note (R131). -/
theorem usbMidi4_mask (cin : Byte) (st c : BitVec 4) (z : BitVec 1) (n : BitVec 7) (v : Byte) :
    (cin ++ st ++ c ++ z ++ n ++ v).setWidth 40 &&& 0xFFF080FF#40 =
      ((cin ++ st ++ 0#4 ++ z ++ 0#7 ++ v).setWidth 40 : Code) := by
  have mask : 0xFFF080FF#40 = (0xFF#8 ++ 0xF#4 ++ 0#4 ++ 1#1 ++ 0#7 ++ 0xFF#8).setWidth 40 := by decide
  rw [mask, ← BitVec.setWidth_and]
  simp only [BitVec.and_append]
  have ones8 : ∀ x : Byte, x &&& 0xFF#8 = x := fun x => BitVec.and_allOnes
  rw [ones8, ones8, BitVec.and_zero, BitVec.and_zero, show st &&& 0xF#4 = st from BitVec.and_allOnes,
    show z &&& 1#1 = z from BitVec.and_allOnes]

/-- A USBMIDI4 word has the fixed bits of a row exactly when its fields are the row's, whatever the channel and the note
(R114 to R116, R131). -/
theorem usbMidi4_matches_iff {cin cin' : Byte} {st st' c : BitVec 4} {z : BitVec 1} {n : BitVec 7} {v : Byte}
    {row : Code} (hrow : row = (cin' ++ st' ++ 0#4 ++ 0#1 ++ 0#7 ++ 0x7F#8).setWidth 40) :
    (cin ++ st ++ c ++ z ++ n ++ v).setWidth 40 &&& 0xFFF080FF#40 = row ↔
      cin = cin' ∧ st = st' ∧ z = 0#1 ∧ v = 0x7F#8 := by
  rw [usbMidi4_mask, hrow, setWidth_inj (by decide)]
  simp only [append_inj, and_true, and_assoc]

/-- USBMIDI4 is `(P0, P1, P2, P3)`: the cable and code index, the status and channel, a 0 and the note, the velocity;
only NOTE_ON and NOTE_OFF are produced (R113 to R116). -/
theorem decode_usbmidi4 (cin : Byte) (st c : BitVec 4) (z : BitVec 1) (n : BitVec 7) (v : Byte) :
    decode .usbmidi4 ((cin ++ st ++ c ++ z ++ n ++ v).setWidth 40) =
      if cin = 0x09#8 ∧ st = 0x9#4 ∧ z = 0#1 ∧ v = 0x7F#8 then .ok (.noteOn c n)
      else if cin = 0x08#8 ∧ st = 0x8#4 ∧ z = 0#1 ∧ v = 0x7F#8 then .ok (.noteOff c n)
      else .error .notProduced := by
  have fits : decode .usbmidi4 _ = decodeUsbMidi4 _ :=
    if_pos (shiftRight_setWidth_eq_zero (cin ++ st ++ c ++ z ++ n ++ v))
  have channel : (cin ++ st ++ c ++ z ++ n ++ v).extractLsb' 16 4 = c := by
    rw [BitVec.extractLsb'_append_eq_of_le (by decide), BitVec.extractLsb'_append_eq_of_le (by decide),
      BitVec.extractLsb'_append_eq_of_le (by decide)]
    exact BitVec.extractLsb'_append_eq_right
  have note : (cin ++ st ++ c ++ z ++ n ++ v).extractLsb' 8 7 = n :=
    (BitVec.extractLsb'_append_eq_of_le (by decide)).trans BitVec.extractLsb'_append_eq_right
  rw [fits, decodeUsbMidi4, field_setWidth _ (by decide), field_setWidth _ (by decide), channel, note]
  simp only [usbMidi4_matches_iff (cin' := 0x09#8) (st' := 0x9#4) (row := 0x0990007F#40) (by decide),
    usbMidi4_matches_iff (cin' := 0x08#8) (st' := 0x8#4) (row := 0x0880007F#40) (by decide)]

/-! ### The round trip -/

/-- Whatever the word decodes to is a well-formed operation of the format, and its encoding is the word. -/
def RoundTrips (f : Format) (w : Code) : Prop :=
  ∀ i, decode f w = .ok i → i.wf = true ∧ i.format = f ∧ encode i = w

theorem RoundTrips.of_reject {f : Format} {w : Code} {r : Reject} (h : decode f w = .error r) : RoundTrips f w := by
  intro i hi
  simp [h] at hi

theorem RoundTrips.of_ok {f : Format} {w : Code} {i : Instr} (h : decode f w = .ok i)
    (hi : i.wf = true ∧ i.format = f ∧ encode i = w) : RoundTrips f w := by
  intro j hj
  obtain rfl : i = j := Except.ok.inj (h.symm.trans hj)
  exact hi

/-- The SPHASE codes are those of the six phases and the two reserved ones (R118). -/
theorem sphase_codes (x : BitVec 3) : (∃ p, x = Machine.sphaseCode p) ∨ x = 6#3 ∨ x = 7#3 := by
  have all : ∀ x : BitVec 3, (Machine.sphaseOfCode (x.setWidth 40)).any (x == Machine.sphaseCode ·) = true ∨
      x = 6#3 ∨ x = 7#3 := by decide
  refine (all x).imp_left fun h => ?_
  obtain ⟨p, -, hp⟩ := (Option.any_eq_true _ _).1 h
  exact ⟨p, beq_iff_eq.1 hp⟩

/-- No TPHASE code is reserved (R119). -/
theorem tphase_codes (x : BitVec 2) : ∃ p, x = Machine.tphaseCode p := by
  have all : ∀ x : BitVec 2, (Machine.tphaseOfCode (x.setWidth 40)).any (x == Machine.tphaseCode ·) = true := by
    decide
  obtain ⟨p, -, hp⟩ := (Option.any_eq_true _ _).1 (all x)
  exact ⟨p, beq_iff_eq.1 hp⟩

theorem roundTrips_sphase (x : BitVec 3) : RoundTrips .sphase (x.setWidth 40) := by
  rcases sphase_codes x with ⟨p, rfl⟩ | rfl | rfl
  · exact .of_ok (i := Machine.scanInstr p) (by cases p <;> rfl) (by cases p <;> decide)
  · exact .of_reject (r := .reservedPhase) rfl
  · exact .of_reject (r := .reservedPhase) rfl

theorem roundTrips_tphase (x : BitVec 2) : RoundTrips .tphase (x.setWidth 40) := by
  obtain ⟨p, rfl⟩ := tphase_codes x
  exact .of_ok (i := Machine.txInstr p) (by cases p <;> rfl) (by cases p <;> decide)

theorem roundTrips_rport (x : BitVec 1) : RoundTrips .rport (x.setWidth 40) := by
  rcases BitVec.eq_zero_or_eq_one x with rfl | rfl
  · exact .of_ok (i := .peekQ) rfl (by decide)
  · exact .of_ok (i := .pop) rfl (by decide)

theorem roundTrips_svc1 (x : BitVec 1) : RoundTrips .svc1 (x.setWidth 40) := by
  rcases BitVec.eq_zero_or_eq_one x with rfl | rfl
  · exact .of_reject (r := .idle) rfl
  · exact .of_ok (i := .svcDone) rfl (by decide)

theorem roundTrips_txd2 (x : BitVec 2) : RoundTrips .txd2 (x.setWidth 40) := by
  obtain ⟨done, ok, rfl⟩ := exists_append 1 1 x
  rcases BitVec.eq_zero_or_eq_one done with rfl | rfl <;> rcases BitVec.eq_zero_or_eq_one ok with rfl | rfl
  · exact .of_reject (r := .idle) rfl
  · exact .of_reject (r := .idle) rfl
  · exact .of_ok (i := .txDoneFail) rfl (by decide)
  · exact .of_ok (i := .txDoneOk) rfl (by decide)

theorem roundTrips_wport (x : BitVec 9) : RoundTrips .wport (x.setWidth 40) := by
  obtain ⟨we, d, rfl⟩ := exists_append 1 8 x
  by_cases h : we = 1#1
  · subst h
    exact .of_ok (decode_wport 1#1 d) ⟨rfl, rfl, rfl⟩
  · exact .of_reject ((decode_wport we d).trans (if_neg h))

theorem roundTrips_hs33 (x : BitVec 33) : RoundTrips .hs33 (x.setWidth 40) := by
  obtain ⟨v, f, rfl⟩ := exists_append 1 32 x
  by_cases h : v = 1#1
  · subst h
    exact .of_ok (decode_hs33 1#1 f) ⟨rfl, rfl, rfl⟩
  · exact .of_reject ((decode_hs33 v f).trans (if_neg h))

theorem roundTrips_evt8 (x : BitVec 8) : RoundTrips .evt8 (x.setWidth 40) := by
  obtain ⟨e, k, rfl⟩ := exists_append 1 7 x
  have decoded := decode_evt8 e k
  by_cases hk : legalKey k = true
  · rw [if_pos hk] at decoded
    rcases BitVec.eq_zero_or_eq_one e with rfl | rfl <;> exact .of_ok decoded ⟨hk, rfl, rfl⟩
  · exact .of_reject (decoded.trans (if_neg hk))

theorem roundTrips_diag11 (x : BitVec 11) : RoundTrips .diag11 (x.setWidth 40) := by
  obtain ⟨record, b, rfl⟩ := exists_append 3 8 x
  obtain ⟨v, c, rfl⟩ := exists_append 1 2 record
  have decoded := decode_diag11 v c b
  split at decoded
  · next valid =>
    subst valid
    split at decoded
    · next code => subst code; exact .of_ok decoded ⟨rfl, rfl, rfl⟩
    split at decoded
    · next code => subst code; exact .of_ok decoded ⟨rfl, rfl, rfl⟩
    split at decoded
    · next code => subst code; exact .of_ok decoded ⟨rfl, rfl, rfl⟩
    · exact .of_reject decoded
  · exact .of_reject decoded

theorem roundTrips_usbmidi4 (x : BitVec 32) : RoundTrips .usbmidi4 (x.setWidth 40) := by
  obtain ⟨lanes, v, rfl⟩ := exists_append 24 8 x
  obtain ⟨head, n, rfl⟩ := exists_append 17 7 lanes
  obtain ⟨status, z, rfl⟩ := exists_append 16 1 head
  obtain ⟨kind, c, rfl⟩ := exists_append 12 4 status
  obtain ⟨cin, st, rfl⟩ := exists_append 8 4 kind
  have decoded := decode_usbmidi4 cin st c z n v
  split at decoded
  · next on =>
    obtain ⟨rfl, rfl, rfl, rfl⟩ := on
    exact .of_ok decoded ⟨rfl, rfl, rfl⟩
  split at decoded
  · next off =>
    obtain ⟨rfl, rfl, rfl, rfl⟩ := off
    exact .of_ok decoded ⟨rfl, rfl, rfl⟩
  · exact .of_reject decoded

theorem roundTrips_word : ∀ (f : Format) (x : BitVec f.width), RoundTrips f (x.setWidth 40)
  | .sphase => roundTrips_sphase
  | .tphase => roundTrips_tphase
  | .wport => roundTrips_wport
  | .rport => roundTrips_rport
  | .evt8 => roundTrips_evt8
  | .usbmidi4 => roundTrips_usbmidi4
  | .hs33 => roundTrips_hs33
  | .svc1 => roundTrips_svc1
  | .txd2 => roundTrips_txd2
  | .diag11 => roundTrips_diag11

end Sys2Proof

open Sys2Proof Sys2Proof.Machine

/-- Settles O1: a word of the short formats is evaluated, a laid-out word goes by its format's decoder. -/
theorem decodeOfEncodeIsTheOperation : Obligations.DecodeOfEncodeIsTheOperation := by
  intro i hi
  cases i with
  | waitHs | strobe | settle | sample | release | halted => decide
  | service | peek | attempt | haltedTx => decide
  | pop | peekQ | svcDone | txDoneOk | txDoneFail => decide
  | push d => exact decode_wport 1#1 d
  | evtPress k => exact (decode_evt8 1#1 k).trans (if_pos hi)
  | evtRelease k => exact (decode_evt8 0#1 k).trans (if_pos hi)
  | noteOn c n => exact decode_usbmidi4 0x09#8 0x9#4 c 0#1 n 0x7F#8
  | noteOff c n => exact decode_usbmidi4 0x08#8 0x8#4 c 0#1 n 0x7F#8
  | handoff f => exact decode_hs33 1#1 f
  | diagSent b => exact decode_diag11 1#1 0b00#2 b
  | diagSendFail b => exact decode_diag11 1#1 0b01#2 b
  | diagFatalDecode b => exact decode_diag11 1#1 0b10#2 b

/-- Settles O2: a word that fits its format is the format's fields laid out, and what they decode to encodes back. -/
theorem decodedWordIsTheEncoding : Obligations.DecodedWordIsTheEncoding := by
  intro f w
  by_cases fits : w >>> f.width = 0#40
  · obtain ⟨x, rfl⟩ := exists_setWidth fits
    exact roundTrips_word f x
  · exact RoundTrips.of_reject (decode_tooWide fits)

/-- Settles O3: each written-out word is the encoding of its operation. -/
theorem specWordsDecode : Obligations.SpecWordsDecode :=
  have word := decodeOfEncodeIsTheOperation
  ⟨word .sample rfl, word .attempt rfl, word (.push 0x96#8) rfl, word .pop rfl, word (.evtPress 22#7) rfl,
    word (.noteOn 0#4 0x3A#7) rfl, word (.handoff 125000000#32) rfl, word .svcDone rfl, word .txDoneFail rfl,
    word (.diagFatalDecode 0x31#8) rfl⟩

end

section
/-! PROOFS. What a step does with the word it selects (R126, R127), and the packets of a NOTE_ON and a NOTE_OFF (R113 to
R116, R224). -/
namespace Sys2Proof.Machine

/-! ### A step runs or refuses the word it selects -/

theorem step_of_fetchWord {s : State} {f : Format} {w : Code} (h : fetchWord s = some (f, w)) :
    step s = stepWord f w (takeEvent s) := by
  simp [step, h]

theorem stepWord_of_ok {f : Format} {w : Code} {i : Instr} (h : decode f w = .ok i) (s : State) :
    stepWord f w s = mapNext (afterStep (domainOf f) s) (exec i (beforeStep (domainOf f) s)) := by
  simp [stepWord, h]

/-- A reserved word is refused; an idle pattern is no reserved word (R127). -/
theorem stepWord_of_reserved {f : Format} {w : Code} {r : Reject} (h : decode f w = .error r) (hr : r ≠ .idle)
    (s : State) : stepWord f w s = .refused (.reservedEncoding f) := by
  cases r with
  | idle => exact absurd rfl hr
  | tooWide | reservedPhase | reservedKeyIndex | notProduced | reservedDiagCode => simp [stepWord, h]

/-! ### Packets -/

theorem packetValue_eq (cin : Byte) (st c : BitVec 4) (z : BitVec 1) (n : BitVec 7) (v : Byte) :
    packetValue { p0 := cin, p1 := st ++ c, p2 := z ++ n, p3 := v } = cin ++ st ++ c ++ z ++ n ++ v :=
  calc cin ++ (st ++ c) ++ (z ++ n) ++ v
    _ = cin ++ st ++ c ++ (z ++ n) ++ v := congrArg (· ++ (z ++ n) ++ v) BitVec.append_assoc'
    _ = cin ++ st ++ c ++ z ++ n ++ v := congrArg (· ++ v) BitVec.append_assoc'

/-- The packet of a key event is its NOTE_ON or NOTE_OFF on channel `CH` (R224). -/
theorem encodePkt_true (k : BitVec 7) : encodePkt k true = noteOnPacket Config.ch (keymapLookup k) := rfl

theorem encodePkt_false (k : BitVec 7) : encodePkt k false = noteOffPacket Config.ch (keymapLookup k) := rfl

/-- The packet's four bytes are the code word of NOTE_ON (R114, R131). -/
theorem packetValue_noteOnPacket (c : BitVec 4) (n : BitVec 7) :
    (packetValue (noteOnPacket c n)).setWidth 40 = encode (.noteOn c n) :=
  congrArg (BitVec.setWidth 40) (packetValue_eq 0x09#8 0x9#4 c 0#1 n 0x7F#8)

theorem packetValue_noteOffPacket (c : BitVec 4) (n : BitVec 7) :
    (packetValue (noteOffPacket c n)).setWidth 40 = encode (.noteOff c n) :=
  congrArg (BitVec.setWidth 40) (packetValue_eq 0x08#8 0x8#4 c 0#1 n 0x7F#8)

/-- The status byte is the status nibble over the channel (R113). -/
theorem status_append_channel (c : BitVec 4) :
    0x9#4 ++ c = 0x90#8 ||| c.setWidth 8 ∧ 0x8#4 ++ c = 0x80#8 ||| c.setWidth 8 := by
  decide +revert

theorem zero_append_note (n : BitVec 7) : 0#1 ++ n = n.setWidth 8 := (BitVec.setWidth_eq_append (by decide)).symm

/-- A byte that decodes holds the index of a key (R221). -/
theorem legal_of_decodeEvt {b : Byte} {k : BitVec 7} {e : Bool} (h : decodeEvt b = some (k, e)) : k.toNat ≤ 48 := by
  simp only [decodeEvt, Config.nkeys, ge_iff_le, Option.ite_none_left_eq_some, Option.some.injEq, Prod.mk.injEq] at h
  obtain ⟨legal, rfl, -⟩ := h
  omega

end Sys2Proof.Machine

open Sys2Proof Sys2Proof.Machine

/-- Settles O4: the decoders on the reserved fields, and a word rejected by another name than `idle` is refused. -/
theorem reservedCodesAreRejected : Obligations.ReservedCodesAreRejected := by
  refine ⟨fun b hb => ?_, rfl, rfl, fun b => decode_diag11 1#1 3#2 b, fun s f w r hf hd hr => ?_⟩
  · obtain ⟨e, k, rfl⟩ := exists_append 1 7 b
    have key : k.toNat = (e ++ k).toNat % 128 := by
      rw [← BitVec.toNat_setWidth (i := 7), BitVec.setWidth_append_eq_right]
    have reserved : ¬ legalKey k = true := by simp only [legalKey, decide_eq_true_eq]; omega
    exact (decode_evt8 e k).trans (if_neg reserved)
  · rw [step_of_fetchWord hf, stepWord_of_reserved hd hr]

/-- Settles O34: the two equations of `step` and `stepWord`. -/
theorem stepRunsTheDecodedOperation : Obligations.StepRunsTheDecodedOperation := by
  intro s f w i hf hd
  rw [step_of_fetchWord hf, stepWord_of_ok hd]

/-- Settles O10: each byte is a constant nibble, bit or byte beside an open field. -/
theorem packetBytes : Obligations.PacketBytes := by
  intro k
  obtain ⟨on, off⟩ := status_append_channel Config.ch
  rw [← on, ← off, ← zero_append_note]
  exact ⟨rfl, rfl⟩

/-- Settles O28: the constants of the packet are the bytes written out, and a key's packet is that of its note on
`CH`. -/
theorem notePacketsAreFormed : Obligations.NotePacketsAreFormed :=
  ⟨fun _ _ _ => ⟨rfl, rfl⟩, fun _ _ => ⟨rfl, rfl⟩⟩

/-- Settles O12: in ATTEMPT the lanes are the head byte's packet, whose four bytes are a NOTE word's encoding. -/
theorem presentedPacketIsANote : Obligations.PresentedPacketIsANote := by
  intro s good req
  obtain ⟨-, -, k, e, held, lanes⟩ := good.tx.inFlight (beq_iff_eq.1 req)
  refine ⟨k, legal_of_decodeEvt held, ?_⟩
  rw [lanes]
  cases e with
  | true =>
    rw [encodePkt_true, packetValue_noteOnPacket]
    exact .inl (decodeOfEncodeIsTheOperation (.noteOn Config.ch (keymapLookup k)) rfl)
  | false =>
    rw [encodePkt_false, packetValue_noteOffPacket]
    exact .inr (decodeOfEncodeIsTheOperation (.noteOff Config.ch (keymapLookup k)) rfl)

end

section
/-! PROOFS. The input transactions and the diagnostic records (30_encoding.md R121, R122, R129): which inputs each phase
reads, so that a transaction driven in another phase is ignored (R153). -/
namespace Sys2Proof.Machine

/-! ### The block apart from its inputs -/

theorem sameBlock_withPins (s : State) (p : Pins) : SameBlock (s.withPins p) s := ⟨rfl, rfl, rfl⟩

/-! ### The inputs each action reads (R27, R153) -/

theorem withPins_ite (c : Prop) [Decidable c] (s t : State) (p : Pins) :
    (if c then s else t).withPins p = if c then s.withPins p else t.withPins p := apply_ite (·.withPins p) c s t

theorem nextColumn_withPins (s : State) (p : Pins) : nextColumn (s.withPins p) = (nextColumn s).withPins p := by
  rw [nextColumn, nextColumn, withPins_ite]; rfl

theorem opSettle_withPins (s : State) (p : Pins) : opSettle (s.withPins p) = (opSettle s).withPins p := by
  rw [opSettle, opSettle, withPins_ite]; rfl

theorem keyEdge_withPins (k : BitVec 7) (pressed : Bool) (s : State) (p : Pins) :
    keyEdge k pressed (s.withPins p) = (keyEdge k pressed s).withPins p := by
  simp only [keyEdge, withPins_ite, ← nextColumn_withPins]
  rfl

/-- SAMPLE reads the columns alone (R166). -/
theorem opSample_withPins {s : State} {p : Pins} (h : p.colN = s.pins.colN) :
    opSample (s.withPins p) = (opSample s).withPins p := by
  have level : samplePressed (s.withPins p) = samplePressed s := by
    simp only [samplePressed, State.withPins_pins, State.withPins_scan, h]
  simp only [opSample, State.withPins_scan, level]
  cases classify s.scan.row s.scan.col with
  | noKeyLow => exact nextColumn_withPins s p
  | noKeyHigh => exact nextColumn_withPins s p
  | key k => simp only [withPins_ite, nextColumn_withPins, keyEdge_withPins]

/-- Past the Handoff the Scanner reads the columns alone (R144, R153). -/
theorem scanAction_withPins {s : State} {p : Pins} (hp : s.scan.sphase ≠ .waitHs) (h : p.colN = s.pins.colN) :
    scanAction (s.withPins p) = (scanAction s).withPins p := by
  cases phase : s.scan.sphase <;> simp only [scanAction, State.withPins_scan, phase]
  case waitHs => exact absurd phase hp
  case strobe => rfl
  case settle => exact opSettle_withPins s p
  case sample => exact opSample_withPins h
  case release => rfl
  case halted => rfl

/-- PEEK reads no input (R202). -/
theorem opPeek_withPins (s : State) (p : Pins) : opPeek (s.withPins p) = (opPeek s).withPins p := by
  have head : peekHead (s.withPins p) = peekHead s := rfl
  simp only [opPeek, head]
  rcases peekHead s with _ | b
  · rfl
  · rcases legal : decodeEvt b with _ | ⟨k, e⟩ <;> simp only [legal] <;> rfl

/-! ### A phase's own operation is its action (R160) -/

theorem exec_scanInstr (s : State) : exec (scanInstr s.scan.sphase) s = .next (scanAction s) := by
  cases phase : s.scan.sphase <;> simp only [scanAction, phase] <;> rfl

/-! ### What a transaction does in the phase that reads it, and in the others -/

/-- The settle length in numerals (R14, R15). -/
theorem settleLoad_eq (f : BitVec 32) : settleLoad f = BitVec.ofNat 16 ((f.toNat + 999999) / 1000000 + 2) := by
  rw [settleLoad, Config.hzPerSettle, Config.colSyncStages, Nat.add_sub_assoc (by decide)]

/-- WAIT_HS with a Handoff driven halts on 0 and takes any other value (R163). -/
theorem opWaitHs_of_valid {s : State} (hv : s.pins.hsValid = true) :
    opWaitHs s = s.withScan
      (if s.pins.hsData.toNat = 0 then haltedScan .init s.scan
       else { s.scan with
         settle := BitVec.ofNat 16 ((s.pins.hsData.toNat + 999999) / 1000000 + 2), row := 0#3,
         sphase := .strobe }) := by
  rcases opWaitHs_cases s with ⟨no, -⟩ | ⟨-, zero, e⟩ | ⟨-, nonzero, e⟩
  · simp [hv] at no
  · have zero_offered : s.pins.hsData.toNat = 0 := congrArg BitVec.toNat zero
    rw [e, if_pos zero_offered]; rfl
  · have positive : s.pins.hsData.toNat ≠ 0 := fun h => nonzero (BitVec.eq_of_toNat_eq h)
    rw [e, if_neg positive, settleLoad_eq]

/-- A USB step changes nothing in SERVICE without a completion, in ATTEMPT without an answer, and in HALTED (R153, R201,
R203, R204). -/
theorem usbAction_sameBlock_of_unread {s : State} {p : Pins}
    (h : (s.usb.tphase = .service ∧ p.svcDone = false) ∨ (s.usb.tphase = .attempt ∧ p.txDone = false) ∨
      s.usb.tphase = .halted) : SameBlock s (usbAction (s.withPins p)) := by
  have idle : usbAction (s.withPins p) = s.withPins p := by
    rcases h with ⟨hp, no⟩ | ⟨hp, no⟩ | hp
    · simp [usbAction, hp, opService, no]
    · simp [usbAction, hp, opAttempt, no]
    · simp [usbAction, hp, opTxHalted]
  rw [idle]
  exact ⟨rfl, rfl, rfl⟩

/-- In PEEK a USB step does PEEK, whatever is driven (R153, R202). -/
theorem usbAction_sameBlock_of_peek {s : State} (p : Pins) (hp : s.usb.tphase = .peek) :
    SameBlock (usbAction (s.withPins p)) (opPeek s) := by
  simp only [usbAction, State.withPins_usb, hp, opPeek_withPins]
  exact sameBlock_withPins _ p

/-- Past the Handoff a scan step does its phase's action, whatever Handoff is driven (R144, R153). -/
theorem scanAction_sameBlock_withPins {s : State} {p : Pins} (hp : s.scan.sphase ≠ .waitHs)
    (h : p.colN = s.pins.colN) : SameBlock (scanAction (s.withPins p)) (scanAction s) := by
  rw [scanAction_withPins hp h]
  exact sameBlock_withPins _ p

theorem diagWord_emitDiag (c : DiagCode) (b : Byte) (s : State) :
    diagWord (emitDiag c b s) = 1#1 ++ diagCodeBits c ++ b := rfl

end Sys2Proof.Machine

open Sys2Proof Sys2Proof.Machine

/-- Settles O29: WAIT_HS alone reads the Handoff; no other phase's action depends on it. -/
theorem handoffIsReadOnlyInWaitHs : Obligations.HandoffIsReadOnlyInWaitHs := by
  intro f s
  refine ⟨_, rfl, fun hp => ?_, fun hp => ⟨_, exec_scanInstr s, scanAction_sameBlock_withPins hp rfl⟩⟩
  simp only [scanAction, State.withPins_scan, hp]
  rw [opWaitHs_of_valid rfl]
  exact ⟨rfl, rfl, rfl⟩

/-- Settles O30: SERVICE alone reads the completion; ATTEMPT waits for an answer that is not driven. -/
theorem serviceDoneIsReadOnlyInService : Obligations.ServiceDoneIsReadOnlyInService := by
  intro s
  refine ⟨_, rfl, fun hp => ?_,
    fun hp => usbAction_sameBlock_of_unread (.inr (hp.imp_left (⟨·, rfl⟩))),
    fun hp => ⟨_, rfl, usbAction_sameBlock_of_peek _ hp⟩⟩
  simp only [usbAction, State.withPins_usb, hp]
  exact ⟨rfl, rfl, rfl⟩

/-- Settles O31: ATTEMPT alone reads the answer; SERVICE waits for a completion that is not driven. -/
theorem sendAnswersAreReadOnlyInAttempt : Obligations.SendAnswersAreReadOnlyInAttempt := by
  intro s
  refine ⟨_, _, rfl, rfl, fun hp => ?_,
    fun hp => ⟨usbAction_sameBlock_of_unread (hp.imp (⟨·, rfl⟩) .inr),
      usbAction_sameBlock_of_unread (hp.imp (⟨·, rfl⟩) .inr)⟩,
    fun hp => ⟨_, rfl, usbAction_sameBlock_of_peek _ hp, usbAction_sameBlock_of_peek _ hp⟩⟩
  simp only [usbAction, State.withPins_usb, hp]
  exact ⟨⟨rfl, rfl, rfl⟩, ⟨rfl, rfl, rfl⟩⟩

/-- Settles O32: the three registers written are the three fields of the port's word. -/
theorem diagnosticRecordsSetThePort : Obligations.DiagnosticRecordsSetThePort := by
  refine fun b s => ⟨rfl, rfl, rfl, fun i hi t ht => ?_⟩
  simp only [List.mem_cons, List.not_mem_nil, or_false] at hi
  rcases hi with rfl | rfl | rfl <;> obtain rfl := Host.Outcome.next.inj ht
  · exact congrArg (BitVec.setWidth 40) (diagWord_emitDiag .sent b s)
  · exact congrArg (BitVec.setWidth 40) (diagWord_emitDiag .sendFail b s)
  · exact congrArg (BitVec.setWidth 40) (diagWord_emitDiag .fatalDecode b s)

end

section
/-! PROOFS. The steps of the composed block seen from its interfaces: reset from any state (R154, R270), a next state
for every step (R155), and which inputs of a clock edge make a difference (R27, R153). -/
namespace Sys2Proof.Machine

/-! ### A step of the composed block (R155) -/

/-- `Composed` speaks of the scenario alone. -/
theorem Composed.of_events {s t : State} (h : Composed s) (events : t.events = s.events) : Composed t := by
  rw [Composed, events]
  exact h

theorem Composed.takeEvent {s : State} (h : Composed s) : Composed (takeEvent s) :=
  fun e he => h e (List.mem_of_mem_tail he)

/-! ### The inputs each phase reads (R27, R153) -/

/-- WAIT_HS reads the Handoff inputs alone (R163). -/
theorem opWaitHs_withPins {s : State} {p : Pins} (valid : p.hsValid = s.pins.hsValid)
    (data : p.hsData = s.pins.hsData) : opWaitHs (s.withPins p) = (opWaitHs s).withPins p := by
  simp only [opWaitHs, State.withPins_pins, valid, data, withPins_ite]
  rfl

/-- SERVICE reads `svc_done` alone (R201). -/
theorem opService_withPins {s : State} {p : Pins} (done : p.svcDone = s.pins.svcDone) :
    opService (s.withPins p) = (opService s).withPins p := by
  simp only [opService, State.withPins_pins, done, withPins_ite]
  rfl

/-- ATTEMPT reads the answer alone (R203). -/
theorem opAttempt_withPins {s : State} {p : Pins} (done : p.txDone = s.pins.txDone) (ok : p.txOk = s.pins.txOk) :
    opAttempt (s.withPins p) = (opAttempt s).withPins p := by
  simp only [opAttempt, State.withPins_pins, done, ok, withPins_ite]
  rfl

/-- A Scanner action depends on the Handoff inputs in WAIT_HS and on the columns in SAMPLE, and on no other input. -/
theorem scanAction_withPins_of_read {s : State} {p : Pins}
    (handoff : s.scan.sphase = .waitHs → p.hsValid = s.pins.hsValid ∧ p.hsData = s.pins.hsData)
    (columns : s.scan.sphase = .sample → p.colN = s.pins.colN) :
    scanAction (s.withPins p) = (scanAction s).withPins p := by
  cases phase : s.scan.sphase <;> simp only [scanAction, State.withPins_scan, phase]
  case waitHs =>
    obtain ⟨valid, data⟩ := handoff phase
    exact opWaitHs_withPins valid data
  case strobe => rfl
  case settle => exact opSettle_withPins s p
  case sample => exact opSample_withPins (columns phase)
  case release => rfl
  case halted => rfl

/-- A Transmitter action depends on `svc_done` in SERVICE and on the answer in ATTEMPT, and on no other input. -/
theorem usbAction_withPins_of_read {s : State} {p : Pins}
    (completion : s.usb.tphase = .service → p.svcDone = s.pins.svcDone)
    (answer : s.usb.tphase = .attempt → p.txDone = s.pins.txDone ∧ p.txOk = s.pins.txOk) :
    usbAction (s.withPins p) = (usbAction s).withPins p := by
  cases phase : s.usb.tphase <;> simp only [usbAction, State.withPins_usb, phase]
  case service => exact opService_withPins (completion phase)
  case peek => exact opPeek_withPins s p
  case attempt =>
    obtain ⟨done, ok⟩ := answer phase
    exact opAttempt_withPins done ok
  case halted => rfl

/-! ### Two edges that differ in inputs their phase does not read -/

/-- The state a step at the edge `e` acts on: its levels stand on the pins (R27). -/
def atEdge (e : Edge) (s : State) : State := takeEvent { s with events := [.edge e] }

theorem stepEdge_scan (v : Bool) (d : BitVec 32) (c : BitVec 8) (s : State) :
    stepEdge (.scan v d c) s =
      .next (syncR2W (atEdge (.scan v d c) s) (scanAction (atEdge (.scan v d c) s))) := step_scanEdge rfl

theorem stepEdge_usb (a b c : Bool) (s : State) :
    stepEdge (.usb a b c) s =
      .next (syncW2R (atEdge (.usb a b c) s) (usbAction (clearDiag (atEdge (.usb a b c) s)))) := step_usbEdge rfl

/-- Two edges at one state leave states to act on that differ in the levels alone. -/
theorem atEdge_eq_withPins (e e' : Edge) (s : State) :
    atEdge e s = (atEdge e' s).withPins (eventPins (.edge e) s.pins) := rfl

theorem sameBlock_atEdge (e e' : Edge) (s : State) : SameBlock (atEdge e s) (atEdge e' s) := ⟨rfl, rfl, rfl⟩

/-- The shift reads and writes registers of the block alone (R187). -/
theorem SameBlock.syncR2W {pre pre' s t : State} (before : SameBlock pre pre') (after : SameBlock s t) :
    SameBlock (syncR2W pre s) (syncR2W pre' t) := by
  obtain ⟨scan, -, usb⟩ := before
  obtain ⟨scan', mem', usb'⟩ := after
  exact ⟨by simp only [Machine.syncR2W, State.withScan_scan, scan, usb, scan'], mem', usb'⟩

/-- The shift reads and writes registers of the block alone (R188). -/
theorem SameBlock.syncW2R {pre pre' s t : State} (before : SameBlock pre pre') (after : SameBlock s t) :
    SameBlock (syncW2R pre s) (syncW2R pre' t) := by
  obtain ⟨scan, -, usb⟩ := before
  obtain ⟨scan', mem', usb'⟩ := after
  exact ⟨scan', mem', by simp only [Machine.syncW2R, State.withUsb_usb, scan, usb, usb']⟩

/-- Two `scan_clk` edges that agree on the inputs their phase reads do the same to the block. -/
theorem stepEdge_scan_sameBlock {s : State} {v v' : Bool} {d d' : BitVec 32} {c c' : BitVec 8}
    (handoff : s.scan.sphase = .waitHs → v = v' ∧ d = d') (columns : s.scan.sphase = .sample → c = c') :
    ∃ t u, stepEdge (.scan v d c) s = .next t ∧ stepEdge (.scan v' d' c') s = .next u ∧ SameBlock t u := by
  refine ⟨_, _, stepEdge_scan v d c s, stepEdge_scan v' d' c' s, (sameBlock_atEdge _ _ s).syncR2W ?_⟩
  rw [atEdge_eq_withPins (.scan v d c) (.scan v' d' c') s, scanAction_withPins_of_read handoff columns]
  exact sameBlock_withPins _ _

/-- Two `usb_clk` edges that agree on the inputs their phase reads do the same to the block. -/
theorem stepEdge_usb_sameBlock {s : State} {a a' b b' c c' : Bool}
    (completion : s.usb.tphase = .service → a = a') (answer : s.usb.tphase = .attempt → b = b' ∧ c = c') :
    ∃ t u, stepEdge (.usb a b c) s = .next t ∧ stepEdge (.usb a' b' c') s = .next u ∧ SameBlock t u := by
  refine ⟨_, _, stepEdge_usb a b c s, stepEdge_usb a' b' c' s, (sameBlock_atEdge _ _ s).syncW2R ?_⟩
  have cleared : clearDiag (atEdge (.usb a b c) s) =
      (clearDiag (atEdge (.usb a' b' c') s)).withPins (eventPins (.edge (.usb a b c)) s.pins) := rfl
  rw [cleared, usbAction_withPins_of_read completion answer]
  exact sameBlock_withPins _ _

end Sys2Proof.Machine

open Sys2Proof Sys2Proof.Machine

/-- Settles O40: a phase's action commutes with a change of the inputs it does not read, and so does the shift. -/
theorem inputsAreIgnoredOutsideTheirPhase : Obligations.InputsAreIgnoredOutsideTheirPhase := fun _ =>
  ⟨fun _ _ _ _ _ past => stepEdge_scan_sameBlock (absurd · past) fun _ => rfl,
    fun _ _ _ _ past => stepEdge_scan_sameBlock (fun _ => ⟨rfl, rfl⟩) (absurd · past),
    fun _ _ _ _ past => stepEdge_usb_sameBlock (absurd · past) fun _ => ⟨rfl, rfl⟩,
    fun _ _ _ _ _ past => stepEdge_usb_sameBlock (fun _ => rfl) (absurd · past)⟩

/-- Settles O43: the next event is an edge, every edge has a next state, and its action leaves the scenario. -/
theorem composedBlockNeverStops : Obligations.ComposedBlockNeverStops := by
  intro s h
  obtain ⟨e, hev⟩ := h.nextEvent
  cases e with
  | scan v d c => exact ⟨_, step_scanEdge hev, h.takeEvent.of_events (scanAction_frame (takeEvent s)).events⟩
  | usb a b c => exact ⟨_, step_usbEdge hev, h.takeEvent.of_events (usbAction_frame (clearDiag (takeEvent s))).events⟩
  | reset => exact ⟨_, step_resetEdge hev, h.takeEvent.of_events rfl⟩

/-- Settles O38: the reset step writes the reset values over both domains and the storage, whatever they held. -/
theorem resetRestoresBothDomains : Obligations.ResetRestoresBothDomains :=
  fun _ hev => ⟨_, step_resetEdge hev, rfl, rfl, rfl⟩

end

section
/-! PROOFS. The Scanner's six phases (41_scanner.md R160 to R168): each operation's next state written out, SAMPLE through
its three outcomes, the row lines of a good state (R175), and the `scan_clk` edge that runs the phase. -/
namespace Sys2Proof.Machine

/-! ### The row lines (R164, R175) -/

/-- Line `r` is low under STROBE of `row` exactly when it is the line of `row`. -/
theorem getLsbD_strobeLine_eq_false_iff (row : BitVec 3) (r : Fin 7) :
    (strobeLine row).getLsbD r = false ↔ r.val = row.toNat := by
  revert row r; decide

theorem getLsbD_rowsIdle (r : Fin 7) : rowsIdle.getLsbD r = true := by
  revert r; decide

theorem rowDriven_eq_true_iff (p : ScanPhase) : rowDriven p = true ↔ p = .settle ∨ p = .sample ∨ p = .release := by
  cases p <;> simp [rowDriven]

/-! ### Matrix positions (R117, R161) -/

theorem toNat_posRaw (row col : BitVec 3) : (posRaw row col).toNat = row.toNat * 8 + col.toNat := by
  rw [posRaw, BitVec.toNat_append, ← Nat.shiftLeft_add_eq_or_of_lt col.isLt, Nat.shiftLeft_eq]

/-- Raw 4 to 52 are the keys; every other position has none (R161). -/
theorem classify_eq_key_iff {row col : BitVec 3} {raw : Nat} (position : (posRaw row col).toNat = raw) (k : BitVec 7) :
    classify row col = .key k ↔ 4 ≤ raw ∧ raw ≤ 52 ∧ k = BitVec.ofNat 7 (raw - 4) := by
  simp only [classify, position, Config.rawSkip, Config.nkeys]
  split
  · next low => exact iff_of_false nofun fun ⟨above, _⟩ => by omega
  · split
    · next high => exact iff_of_false nofun fun ⟨_, below, _⟩ => by omega
    · next low high =>
      rw [KeyClass.key.injEq, eq_comm]
      exact ⟨fun same => ⟨by omega, by omega, same⟩, fun ⟨_, _, same⟩ => same⟩

/-! ### The snapshot (R48) -/

/-- Writing one snapshot bit leaves the others, bit numbers beyond the last key among them. -/
theorem getLsbD_setSnapBit_other (n : BitVec 49) (k : BitVec 7) (v : Bool) {j : Nat} (h : j ≠ k.toNat) :
    (setSnapBit n k v).getLsbD j = n.getLsbD j := by
  by_cases hj : j < 49
  · have number : (BitVec.ofNat 7 j).toNat = j := by simp; omega
    have other : BitVec.ofNat 7 j ≠ k := fun e => h (by rw [← e, number])
    simpa only [snapBit, number] using snapBit_setSnapBit_other n k (BitVec.ofNat 7 j) v other
  · rw [BitVec.getLsbD_of_ge _ _ (by omega), BitVec.getLsbD_of_ge _ _ (by omega)]

/-! ### SAMPLE (R166) -/

theorem nextColumn_eq_advanced (s : State) : nextColumn s = s.withScan (advanced s.scan) := by
  have last : s.scan.col = 7#3 ↔ s.scan.col.toNat = 7 := by rw [← BitVec.toNat_inj]; rfl
  simp only [nextColumn, advanced, last]
  split <;> rfl

/-- Nothing taken: there is no key at the position, or its sample equals its snapshot bit. -/
def NoEdgeAt (s : State) : Prop :=
  ∀ k, classify s.scan.row s.scan.col = .key k → samplePressed s = snapBit s.scan.snap k

/-- Key `k` is at the position, and its sample differs from its snapshot bit. -/
def EdgeAt (k : BitVec 7) (s : State) : Prop :=
  classify s.scan.row s.scan.col = .key k ∧ samplePressed s ≠ snapBit s.scan.snap k

theorem noEdgeAt_or_edgeAt (s : State) : NoEdgeAt s ∨ ∃ k, EdgeAt k s := by
  by_cases h : ∃ k, EdgeAt k s
  · exact .inr h
  · exact .inl fun k hk => Classical.byContradiction fun ne => h ⟨k, hk, ne⟩

theorem opSample_of_noEdge {s : State} (h : NoEdgeAt s) : opSample s = s.withScan (advanced s.scan) := by
  rcases opSample_cases s with e | ⟨k, hk, ne, -⟩
  · rw [e, nextColumn_eq_advanced]
  · exact absurd (h k hk) ne

theorem opSample_of_edge {k : BitVec 7} {s : State} (h : EdgeAt k s) :
    opSample s = keyEdge k (samplePressed s) s := by
  obtain ⟨hk, ne⟩ := h
  simp only [opSample, hk, if_neg ne]

/-- An edge on a full queue: the byte is recorded as lost and the Scanner halts (R241). -/
theorem opSample_of_edge_full {k : BitVec 7} {s : State} (h : EdgeAt k s) (full : wfull s = true) :
    opSample s = (s.withScan (haltedScan .overflow
      { s.scan with
        snap := setSnapBit s.scan.snap k (samplePressed s), lost := encodeEvt k (samplePressed s) })).withObs
      { s.obs with evt := some (encodeEvt k (samplePressed s)) } := by
  rw [opSample_of_edge h]
  rcases keyEdge_cases k (samplePressed s) s with ⟨-, e⟩ | ⟨room, -⟩
  · rw [e]; rfl
  · simp [full] at room

/-- An edge with room: the byte is pushed and the column advances (R181). -/
theorem opSample_of_edge_room {k : BitVec 7} {s : State} (h : EdgeAt k s) (room : wfull s = false) :
    opSample s = ((s.withMem (s.mem.write (slotOf s.scan.wbin) (encodeEvt k (samplePressed s)))).withScan
      (advanced { s.scan with
        snap := setSnapBit s.scan.snap k (samplePressed s), wbin := s.scan.wbin + 1#8,
        wgray := bin2gray (s.scan.wbin + 1#8) })).withObs
      { s.obs with
        evt := some (encodeEvt k (samplePressed s)), push := some (encodeEvt k (samplePressed s)) } := by
  rw [opSample_of_edge h]
  rcases keyEdge_cases k (samplePressed s) s with ⟨full, -⟩ | ⟨-, e⟩
  · simp [room] at full
  · rw [e, nextColumn_eq_advanced]; rfl

/-- Whether SAMPLE takes an edge, by the raw index (R161, R166). -/
theorem noEdgeAt_iff {s : State} {raw : Nat} (position : (posRaw s.scan.row s.scan.col).toNat = raw) :
    NoEdgeAt s ↔ raw < 4 ∨ 52 < raw ∨ samplePressed s = snapBit s.scan.snap (BitVec.ofNat 7 (raw - 4)) := by
  simp only [NoEdgeAt, classify_eq_key_iff position]
  constructor
  · intro same
    by_cases low : raw < 4
    · exact .inl low
    · by_cases high : 52 < raw
      · exact .inr (.inl high)
      · exact .inr (.inr (same _ ⟨by omega, by omega, rfl⟩))
  · rintro (low | high | same) k ⟨above, below, rfl⟩
    · omega
    · omega
    · exact same

end Sys2Proof.Machine

open Sys2Proof Sys2Proof.Machine

/-- Settles O16: no edge, an edge on a full queue, and an edge with room, by the raw index of the position. -/
theorem sampleTakesTheEdge : Obligations.SampleTakesTheEdge := by
  intro s raw k pressed b snap
  have answer : exec .sample s = .next (opSample s) := rfl
  have position : (posRaw s.scan.row s.scan.col).toNat = raw := toNat_posRaw _ _
  have quiet_iff : NoEdgeAt s ↔ raw < 4 ∨ 52 < raw ∨ pressed = s.scan.snap.getLsbD k.toNat := noEdgeAt_iff position
  refine ⟨?_, ?_⟩
  · rw [answer]
    rcases noEdgeAt_or_edgeAt s with none_taken | ⟨k', taken⟩
    · rw [if_pos (quiet_iff.1 none_taken), opSample_of_noEdge none_taken]
    · obtain ⟨-, -, rfl⟩ := (classify_eq_key_iff position k').1 taken.1
      have edge : ¬ NoEdgeAt s := fun none_taken => taken.2 (none_taken _ taken.1)
      rw [if_neg (mt quiet_iff.2 edge)]
      cases room : wfull s
      · rw [if_neg (by decide), opSample_of_edge_room taken room, slotOf_eq]; rfl
      · rw [if_pos rfl, opSample_of_edge_full taken room]; rfl
  · by_cases low : raw < 4
    · exact .inl low
    · by_cases high : 52 < raw
      · exact .inr (.inl high)
      · have legal : k.toNat < 49 := by simp only [k, BitVec.toNat_ofNat]; omega
        exact .inr (.inr ⟨snapBit_setSnapBit_same s.scan.snap k pressed legal,
          fun j hj => getLsbD_setSnapBit_other s.scan.snap k pressed hj⟩)

/-- Settles O52: the lines are those of STROBE of `row` in the driven phases, and idle in the others. -/
theorem atMostOneRowIsDriven : Obligations.AtMostOneRowIsDriven := by
  intro s good r
  rw [good.scanner.lines, ← rowDriven_eq_true_iff]
  cases rowDriven s.scan.sphase
  · simp only [Bool.false_eq_true, if_false, false_and, getLsbD_rowsIdle, Bool.true_eq_false]
  · simp only [if_true, true_and, getLsbD_strobeLine_eq_false_iff]

/-- Settles O13: without a Handoff nothing changes; an offered one is 0 and halts, or is taken; both leave WAIT_HS. -/
theorem waitHsTakesTheHandoff : Obligations.WaitHsTakesTheHandoff := by
  intro s
  have answer : exec .waitHs s = .next (opWaitHs s) := rfl
  rw [answer]
  refine ⟨?_, fun t ht offered => ?_⟩
  · cases offered : s.pins.hsValid
    · simp [opWaitHs, offered]
    · rw [opWaitHs_of_valid offered, apply_ite s.withScan]
      rfl
  · obtain rfl := Host.Outcome.next.inj ht
    obtain ⟨done, -⟩ := scanStatus_fields (opWaitHs s)
    rw [done, opWaitHs_of_valid offered, State.withScan_scan]
    split <;> exact nofun

/-- Settles O14: STROBE drives the line pattern of `row`. -/
theorem strobeDrivesOneRow : Obligations.StrobeDrivesOneRow := by
  refine fun s => ⟨rfl, fun t ht r => ?_⟩
  obtain rfl : opStrobe s = t := Host.Outcome.next.inj ht
  exact getLsbD_strobeLine_eq_false_iff s.scan.row r

/-- Settles O15: the guard of the countdown, on the count as a number. -/
theorem settleCountsDown : Obligations.SettleCountsDown := by
  intro s
  have answer : exec .settle s = .next (opSettle s) := rfl
  have guard : s.scan.cnt ≤ 1#16 ↔ s.scan.cnt.toNat ≤ 1 := BitVec.le_def
  rw [answer]
  simp only [opSettle, guard]

/-- Settles O18: the wrap after row 6, on the row as a number. -/
theorem releaseMovesToTheNextRow : Obligations.ReleaseMovesToTheNextRow := by
  intro s
  have answer : exec .release s = .next (opRelease s) := rfl
  have last : s.scan.row = 6#3 ↔ s.scan.row.toNat = 6 := by rw [← BitVec.toNat_inj]; rfl
  rw [answer]
  simp only [opRelease, rowsIdle, last]

/-- Settles O19: HALTED is the identity, so its `scan_clk` edge does the synchroniser shift alone. -/
theorem haltedScannerOnlyShifts : Obligations.HaltedScannerOnlyShifts := by
  refine ⟨fun _ => rfl, fun s t v d c hev halted hs => ?_⟩
  have action : scanAction (takeEvent s) = takeEvent s := by simp only [scanAction, takeEvent_scan, halted, opHalted]
  rw [step_scanEdge hev, action] at hs
  obtain rfl := Host.Outcome.next.inj hs
  exact ⟨rfl, rfl, rfl⟩

/-- Settles O35: the phase's operation is its action, and taking the event leaves the registers the shift reads. -/
theorem scanEdgeRunsThePhase : Obligations.ScanEdgeRunsThePhase := by
  intro s t v d c hev ht
  obtain rfl := Host.Outcome.next.inj ((exec_scanInstr (takeEvent s)).symm.trans ht)
  rw [step_scanEdge hev]
  rfl

end

section
/-! PROOFS. Runs of clock edges (R92, R155): the state after an edge as a function, what a run records from one edge to the
next, and what an edge of each clock leaves alone. -/
namespace Sys2Proof.Machine

/-! ### The state after an edge -/

@[simp] theorem atEdge_scan (e : Edge) (s : State) : (atEdge e s).scan = s.scan := rfl
@[simp] theorem atEdge_mem (e : Edge) (s : State) : (atEdge e s).mem = s.mem := rfl
@[simp] theorem atEdge_usb (e : Edge) (s : State) : (atEdge e s).usb = s.usb := rfl
@[simp] theorem atEdge_obs (e : Edge) (s : State) : (atEdge e s).obs = Obs.quiet := rfl

/-- The state after the step at the edge `e`; `stepEdge_eq` ties it to the step. -/
def afterEdge (e : Edge) (s : State) : State :=
  match e with
  | .scan _ _ _ => syncR2W (atEdge e s) (scanAction (atEdge e s))
  | .usb _ _ _ => syncW2R (atEdge e s) (usbAction (clearDiag (atEdge e s)))
  | .reset => applyReset (atEdge e s)

/-- Every edge has a next state (R155). -/
theorem stepEdge_eq (e : Edge) (s : State) : stepEdge e s = .next (afterEdge e s) := by
  cases e with
  | scan v d c => exact stepEdge_scan v d c s
  | usb a b c => exact stepEdge_usb a b c s
  | reset => exact step_resetEdge rfl

theorem afterEdge_of_scan {e : Edge} (h : edgeIsScan e = true) (s : State) :
    afterEdge e s = syncR2W (atEdge e s) (scanAction (atEdge e s)) := by
  cases e with
  | scan v d c => rfl
  | usb | reset => exact nomatch h

theorem edgeIsScan_or_edgeIsUsb {e : Edge} (h : edgeIsClock e = true) : edgeIsScan e = true ∨ edgeIsUsb e = true := by
  cases e with
  | scan => exact .inl rfl
  | usb => exact .inr rfl
  | reset => exact nomatch h

theorem edgeIsScan_eq_false {e : Edge} (h : edgeIsUsb e = true) : edgeIsScan e = false := by
  cases e with
  | usb => rfl
  | scan | reset => exact nomatch h

/-- A `usb_clk` edge leaves the scan domain and the storage, and pushes nothing (R195, R200). -/
theorem afterEdge_usb_frame {e : Edge} (h : edgeIsUsb e = true) (s : State) :
    (afterEdge e s).scan = s.scan ∧ (afterEdge e s).mem = s.mem ∧ (afterEdge e s).obs.push = none := by
  cases e with
  | usb a b c =>
    have frame := usbAction_frame (clearDiag (atEdge (.usb a b c) s))
    exact ⟨frame.scan, frame.mem, frame.push⟩
  | scan | reset => exact nomatch h

/-- A `scan_clk` edge leaves the USB domain (R160, R195). -/
theorem afterEdge_scan_usb {e : Edge} (h : edgeIsScan e = true) (s : State) : (afterEdge e s).usb = s.usb := by
  rw [afterEdge_of_scan h]
  exact (scanAction_frame (atEdge e s)).usb

/-! ### A run from one edge to the next -/

theorem trace_cons (e : Edge) (es : List Edge) (s : State) :
    trace (e :: es) s = afterEdge e s :: trace es (afterEdge e s) := by
  simp only [trace, stepEdge_eq]

@[simp] theorem lastState_nil (s : State) : lastState [] s = s := rfl

@[simp] theorem lastState_cons (e : Edge) (es : List Edge) (s : State) :
    lastState (e :: es) s = lastState es (afterEdge e s) := by
  rw [lastState, trace_cons, List.getLastD_cons, lastState]

theorem lastState_append (es es' : List Edge) (s : State) :
    lastState (es ++ es') s = lastState es' (lastState es s) := by
  induction es generalizing s with
  | nil => rfl
  | cons e es ih => simp only [List.cons_append, lastState_cons, ih]

theorem keySamples_cons (k : BitVec 7) (e : Edge) (es : List Edge) (s : State) :
    keySamples k (e :: es) s = (sampleOf k e s).toList ++ keySamples k es (afterEdge e s) := by
  simp only [keySamples, stepEdge_eq]

theorem keyPushes_cons (k : BitVec 7) (e : Edge) (es : List Edge) (s : State) :
    keyPushes k (e :: es) s = (pushOf k (afterEdge e s).obs).toList ++ keyPushes k es (afterEdge e s) := by
  rw [keyPushes, trace_cons, List.filterMap_cons, keyPushes]
  cases pushOf k (afterEdge e s).obs <;> rfl

theorem sampledRaws_cons (e : Edge) (es : List Edge) (s : State) :
    sampledRaws (e :: es) s =
      (if edgeIsScan e && s.scan.sphase == .sample then [(posRaw s.scan.row s.scan.col).toNat] else []) ++
        sampledRaws es (afterEdge e s) := by
  simp only [sampledRaws, stepEdge_eq]

theorem scanSteps_cons_scan {e : Edge} (h : edgeIsScan e = true) (es : List Edge) :
    scanSteps (e :: es) = scanSteps es + 1 := by
  rw [scanSteps, List.filter_cons_of_pos h, List.length_cons, scanSteps]

theorem scanSteps_cons_usb {e : Edge} (h : edgeIsUsb e = true) (es : List Edge) :
    scanSteps (e :: es) = scanSteps es := by
  rw [scanSteps, List.filter_cons_of_neg (by simp [edgeIsScan_eq_false h]), scanSteps]

/-! ### A halted Scanner stays halted (R168, R247) -/

theorem halted_afterEdge {e : Edge} {s : State} (clock : edgeIsClock e = true) (halted : s.scan.sphase = .halted) :
    (afterEdge e s).scan.sphase = .halted := by
  rcases edgeIsScan_or_edgeIsUsb clock with scan | usb
  · rw [afterEdge_of_scan scan, syncR2W_scan]
    simp only [scanAction, atEdge_scan, halted, opHalted]
  · obtain ⟨same, -⟩ := afterEdge_usb_frame usb s
    rw [same, halted]

theorem halted_lastState {es : List Edge} {s : State} (clocks : ∀ e ∈ es, edgeIsClock e = true)
    (halted : s.scan.sphase = .halted) : (lastState es s).scan.sphase = .halted := by
  induction es generalizing s with
  | nil => exact halted
  | cons e es ih =>
    obtain ⟨clock, clocks⟩ := List.forall_mem_cons.1 clocks
    rw [lastState_cons]
    exact ih clocks (halted_afterEdge clock halted)

/-- Along a run of clock edges with USB edges alone the scan domain stands, and nothing is sampled. -/
theorem lastState_of_no_scanSteps {es : List Edge} {s : State} (clocks : ∀ e ∈ es, edgeIsClock e = true)
    (none_scan : scanSteps es = 0) : (lastState es s).scan = s.scan ∧ sampledRaws es s = [] := by
  induction es generalizing s with
  | nil => exact ⟨rfl, rfl⟩
  | cons e es ih =>
    obtain ⟨clock, clocks⟩ := List.forall_mem_cons.1 clocks
    rcases edgeIsScan_or_edgeIsUsb clock with scan | usb
    · rw [scanSteps_cons_scan scan] at none_scan
      exact nomatch none_scan
    · rw [scanSteps_cons_usb usb] at none_scan
      obtain ⟨same, -⟩ := afterEdge_usb_frame usb s
      obtain ⟨rest, no_samples⟩ := ih (s := afterEdge e s) clocks none_scan
      rw [lastState_cons, sampledRaws_cons, edgeIsScan_eq_false usb, rest, same, no_samples]
      exact ⟨rfl, rfl⟩

/-- Along a run of `scan_clk` edges the USB domain stands (R195). -/
theorem lastState_usb {es : List Edge} {s : State} (scans : ∀ e ∈ es, edgeIsScan e = true) :
    (lastState es s).usb = s.usb := by
  induction es generalizing s with
  | nil => rfl
  | cons e es ih =>
    obtain ⟨scan, scans⟩ := List.forall_mem_cons.1 scans
    rw [lastState_cons, ih scans, afterEdge_scan_usb scan]

end Sys2Proof.Machine
end

section
/-! PROOFS. The bytes of a key along a run of clock edges (R170, R172, R173): an edge of the block changes nothing of the
keys, pushes the byte of the one key it sampled, or halts the Scanner; and what follows for the sequence of samples. -/
namespace Sys2Proof.Machine

/-! ### What one clock edge does to the keys -/

/-- The snapshot and the write side of the queue are the same in both states. -/
structure SameKeys (s t : State) : Prop where
  snap : t.scan.snap = s.scan.snap
  wbin : t.scan.wbin = s.scan.wbin
  wgray : t.scan.wgray = s.scan.wgray
  mem : t.mem = s.mem

/-- What a clock edge `e` from `s` to `t` does to the keys (R166): the snapshot and the queue stand and every sample
agrees with the snapshot; or one key's sample differs, and its byte is pushed; or it differs and the Scanner halts. -/
inductive KeyStep (e : Edge) (s t : State) : Prop where
  | agreed (same : SameKeys s t) (quiet : t.obs.push = none)
      (agree : ∀ k x, sampleOf k e s = some x → x = snapBit s.scan.snap k)
  | pushed (k : BitVec 7) (p : Bool) (legal : k.toNat < 49) (sampled : sampleOf k e s = some p)
      (others : ∀ j, j ≠ k → sampleOf j e s = none) (differs : p ≠ snapBit s.scan.snap k)
      (snap : t.scan.snap = setSnapBit s.scan.snap k p) (push : t.obs.push = some (encodeEvt k p))
  | stopped (k : BitVec 7) (p : Bool) (sampled : sampleOf k e s = some p) (differs : p ≠ snapBit s.scan.snap k)
      (halted : t.scan.sphase = .halted)

/-- A step samples key `k` at a `scan_clk` edge in SAMPLE of its position, and takes the column's level (R166). -/
theorem sampleOf_eq_some_iff {k : BitVec 7} {e : Edge} {s : State} {x : Bool} :
    sampleOf k e s = some x ↔
      edgeIsScan e = true ∧ s.scan.sphase = .sample ∧ classify s.scan.row s.scan.col = .key k ∧
        samplePressed (atEdge e s) = x := by
  cases e with
  | scan v d c =>
    have level : samplePressed (atEdge (.scan v d c) s) = !c.getLsbD s.scan.col.toNat := rfl
    by_cases phase : s.scan.sphase = .sample
    · cases position : classify s.scan.row s.scan.col with
      | noKeyLow | noKeyHigh => simp [sampleOf, phase, position]
      | key k' => by_cases same : k' = k <;> simp [sampleOf, edgeIsScan, phase, position, same, level]
    · simp [sampleOf, phase]
  | usb | reset => simp [sampleOf, edgeIsScan]

/-- Outside SAMPLE a Scanner action leaves the snapshot and the queue, and pushes nothing (R163 to R168). -/
theorem scanAction_sameKeys {s : State} (not_sample : s.scan.sphase ≠ .sample) :
    SameKeys s (scanAction s) ∧ (scanAction s).obs.push = s.obs.push := by
  cases phase : s.scan.sphase <;> simp only [scanAction, phase]
  case waitHs =>
    rcases opWaitHs_cases s with ⟨-, e⟩ | ⟨-, -, e⟩ | ⟨-, -, e⟩ <;> rw [e] <;> exact ⟨⟨rfl, rfl, rfl, rfl⟩, rfl⟩
  case strobe => exact ⟨⟨rfl, rfl, rfl, rfl⟩, rfl⟩
  case settle =>
    rcases opSettle_cases s with ⟨-, e⟩ | ⟨-, e⟩ <;> rw [e] <;> exact ⟨⟨rfl, rfl, rfl, rfl⟩, rfl⟩
  case sample => exact absurd phase not_sample
  case release => exact ⟨⟨rfl, rfl, rfl, rfl⟩, rfl⟩
  case halted => exact ⟨⟨rfl, rfl, rfl, rfl⟩, rfl⟩

@[simp] theorem advanced_snap (r : ScanRegs) : (advanced r).snap = r.snap := by rw [advanced]; split <;> rfl
@[simp] theorem advanced_wbin (r : ScanRegs) : (advanced r).wbin = r.wbin := by rw [advanced]; split <;> rfl
@[simp] theorem advanced_wgray (r : ScanRegs) : (advanced r).wgray = r.wgray := by rw [advanced]; split <;> rfl

/-- A `scan_clk` edge in SAMPLE, by the three outcomes of SAMPLE. -/
theorem keyStep_of_sample {e : Edge} {s : State} (scan : edgeIsScan e = true) (phase : s.scan.sphase = .sample) :
    KeyStep e s (afterEdge e s) := by
  have action : scanAction (atEdge e s) = opSample (atEdge e s) := by simp only [scanAction, atEdge_scan, phase]
  rw [afterEdge_of_scan scan, action]
  rcases noEdgeAt_or_edgeAt (atEdge e s) with same | ⟨k, taken⟩
  · rw [opSample_of_noEdge same]
    refine .agreed ⟨by simp, by simp, by simp, rfl⟩ rfl fun k x sampled => ?_
    obtain ⟨-, -, position, rfl⟩ := sampleOf_eq_some_iff.1 sampled
    exact same k position
  · obtain ⟨position, differs⟩ := taken
    have sampled := sampleOf_eq_some_iff.2 ⟨scan, phase, position, rfl⟩
    cases room : wfull (atEdge e s)
    · obtain ⟨-, legal⟩ := classify_key position
      rw [opSample_of_edge_room ⟨position, differs⟩ room]
      refine .pushed k _ legal sampled (fun j other => ?_) differs (by simp) rfl
      refine Option.eq_none_iff_forall_ne_some.2 fun x sampled' => other ?_
      obtain ⟨-, -, position', -⟩ := sampleOf_eq_some_iff.1 sampled'
      exact KeyClass.key.inj (position'.symm.trans position)
    · rw [opSample_of_edge_full ⟨position, differs⟩ room]
      exact .stopped k _ sampled differs rfl

theorem keyStep_afterEdge {e : Edge} (clock : edgeIsClock e = true) (s : State) : KeyStep e s (afterEdge e s) := by
  have unsampled : edgeIsScan e ≠ true ∨ s.scan.sphase ≠ .sample →
      ∀ k x, sampleOf k e s = some x → x = snapBit s.scan.snap k := fun no k x sampled => by
    obtain ⟨scan, phase, -⟩ := sampleOf_eq_some_iff.1 sampled
    exact absurd phase (no.resolve_left (not_not_intro scan))
  rcases edgeIsScan_or_edgeIsUsb clock with scan | usb
  · by_cases phase : s.scan.sphase = .sample
    · exact keyStep_of_sample scan phase
    · obtain ⟨⟨snap, wbin, wgray, mem⟩, push⟩ := scanAction_sameKeys (s := atEdge e s) phase
      rw [afterEdge_of_scan scan]
      exact .agreed ⟨snap, wbin, wgray, mem⟩ push (unsampled (.inr phase))
  · obtain ⟨same, mem, push⟩ := afterEdge_usb_frame usb s
    exact .agreed ⟨by rw [same], by rw [same], by rw [same], mem⟩ push
      (unsampled (.inl (by simp [edgeIsScan_eq_false usb])))

/-! ### The changes in a sequence of samples -/

theorem getLastD_append (p : Bool) (xs ys : List Bool) : (xs ++ ys).getLastD p = ys.getLastD (xs.getLastD p) := by
  simp only [List.getLastD_eq_getLast?, List.getLast?_append, Option.getD_or]

/-- The changes in a sequence go on from the last value before. -/
theorem changes_append (p : Bool) (xs ys : List Bool) :
    changes p (xs ++ ys) = changes p xs ++ changes (xs.getLastD p) ys := by
  induction xs generalizing p with
  | nil => rfl
  | cons x xs ih =>
    by_cases same : x = p
    · subst same; simp only [List.cons_append, changes, if_true, ih, List.getLastD_cons]
    · simp only [List.cons_append, changes, if_neg same, ih, List.getLastD_cons]

/-- Every change is a change from the one before it. -/
theorem changes_changes (p : Bool) (xs : List Bool) : changes p (changes p xs) = changes p xs := by
  induction xs generalizing p with
  | nil => rfl
  | cons x xs ih =>
    by_cases same : x = p
    · simp only [changes, if_pos same, ih]
    · simp only [changes, if_neg same, ih]

/-- The last change is to the last value. -/
theorem getLastD_changes (p : Bool) (xs : List Bool) : (changes p xs).getLastD p = xs.getLastD p := by
  induction xs generalizing p with
  | nil => rfl
  | cons x xs ih =>
    by_cases same : x = p
    · simp only [changes, same, if_true, ih, List.getLastD_cons]
    · simp only [changes, if_neg same, ih, List.getLastD_cons]

/-! ### The bytes of a key along a run -/

theorem pushOf_of_push {k j : BitVec 7} {p : Bool} {o : Obs} (legal : k.toNat < 49)
    (push : o.push = some (encodeEvt k p)) : pushOf j o = if k = j then some p else none := by
  simp only [pushOf, push, decodeEvt_encodeEvt legal]

/-- One clock edge that does not halt the Scanner pushes for a key the change its sample is, and leaves the sample in the
snapshot bit (R166, R170, R172). -/
theorem KeyStep.key {e : Edge} {s t : State} (h : KeyStep e s t) (running : t.scan.sphase ≠ .halted) (k : BitVec 7) :
    (pushOf k t.obs).toList = changes (snapBit s.scan.snap k) (sampleOf k e s).toList ∧
      snapBit t.scan.snap k = (sampleOf k e s).toList.getLastD (snapBit s.scan.snap k) := by
  cases h with
  | agreed same quiet agree =>
    have none_pushed : pushOf k t.obs = none := by simp only [pushOf, quiet]
    rw [none_pushed, same.snap]
    rcases sampled : sampleOf k e s with _ | x
    · exact ⟨rfl, rfl⟩
    · simp [agree k x sampled, changes]
  | pushed k' p legal sampled others differs snap push =>
    rw [pushOf_of_push legal push, snap]
    by_cases here : k' = k
    · subst here
      simp [sampled, changes, differs, snapBit_setSnapBit_same _ _ _ legal]
    · simp [here, others k (Ne.symm here), changes, snapBit_setSnapBit_other _ _ _ _ (Ne.symm here)]
  | stopped k' p sampled differs halted => exact absurd halted running

/-- The bytes of a key are the changes in its samples, and its snapshot bit is the last sample. -/
theorem keyPushes_and_snapBit {es : List Edge} {s : State} (clocks : ∀ e ∈ es, edgeIsClock e = true)
    (running : (lastState es s).scan.sphase ≠ .halted) (k : BitVec 7) :
    keyPushes k es s = changes (snapBit s.scan.snap k) (keySamples k es s) ∧
      snapBit (lastState es s).scan.snap k = (keySamples k es s).getLastD (snapBit s.scan.snap k) := by
  induction es generalizing s with
  | nil => exact ⟨rfl, rfl⟩
  | cons e es ih =>
    obtain ⟨clock, clocks⟩ := List.forall_mem_cons.1 clocks
    rw [lastState_cons] at running ⊢
    obtain ⟨pushes, bit⟩ := ih clocks running
    obtain ⟨push, first⟩ := (keyStep_afterEdge clock s).key (mt (halted_lastState clocks) running) k
    rw [keyPushes_cons, keySamples_cons, changes_append, getLastD_append, pushes, bit, push, first]
    exact ⟨rfl, rfl⟩

theorem SameKeys.trans {s t u : State} (h : SameKeys s t) (h' : SameKeys t u) : SameKeys s u :=
  ⟨h'.snap.trans h.snap, h'.wbin.trans h.wbin, h'.wgray.trans h.wgray, h'.mem.trans h.mem⟩

/-- A run whose samples all agree with the snapshot it began with pushes nothing and keeps it (R173). -/
theorem sameKeys_of_samples_agree {es : List Edge} {s : State} (clocks : ∀ e ∈ es, edgeIsClock e = true)
    (agree : ∀ k, ∀ x ∈ keySamples k es s, x = snapBit s.scan.snap k) :
    SameKeys s (lastState es s) ∧ ∀ t ∈ trace es s, t.obs.push = none := by
  induction es generalizing s with
  | nil => exact ⟨⟨rfl, rfl, rfl, rfl⟩, List.forall_mem_nil _⟩
  | cons e es ih =>
    obtain ⟨clock, clocks⟩ := List.forall_mem_cons.1 clocks
    simp only [keySamples_cons, List.mem_append, Option.mem_toList] at agree
    rw [lastState_cons, trace_cons]
    cases keyStep_afterEdge clock s with
    | agreed same quiet _ =>
      obtain ⟨rest, no_push⟩ := ih clocks fun k x hx => by rw [same.snap]; exact agree k x (.inr hx)
      exact ⟨same.trans rest, List.forall_mem_cons.2 ⟨quiet, no_push⟩⟩
    | pushed k p _ sampled _ differs => exact absurd (agree k p (.inl sampled)) differs
    | stopped k p sampled differs => exact absurd (agree k p (.inl sampled)) differs

end Sys2Proof.Machine

open Sys2Proof Sys2Proof.Machine

/-- Settles O54, by induction on the run: an edge that does not halt the Scanner pushes the change its sample is. -/
theorem edgeOnlyEmission : Obligations.EdgeOnlyEmission := fun k _ _ clocks running =>
  have ⟨pushes, _⟩ := keyPushes_and_snapBit clocks running k
  pushes

/-- Settles O55: the bytes are the changes in the samples, and the snapshot bit is the last sample. -/
theorem edgesAlternatePerKey : Obligations.EdgesAlternatePerKey := by
  intro k es s clocks running
  obtain ⟨pushes, bit⟩ := keyPushes_and_snapBit clocks running k
  rw [pushes, bit, changes_changes, getLastD_changes]
  exact ⟨rfl, rfl⟩

/-- Settles O56, by induction on the run: where every sample agrees, no edge pushes or halts. -/
theorem unchangedScanPushesNothing : Obligations.UnchangedScanPushesNothing := by
  intro es s clocks agree
  obtain ⟨⟨snap, wbin, wgray, mem⟩, no_push⟩ := sameKeys_of_samples_agree clocks agree
  exact ⟨snap, wbin, wgray, mem, no_push⟩

end

section
/-! PROOFS. The Scanner's walk over the matrix (R165, R169, R280, R289): a settle wait, and the scan cycle as a counter of
scan steps, along runs with any USB steps between. -/
namespace Sys2Proof.Machine

/-! ### A settle wait (R165, R280) -/

/-- The scan domain and the storage are the same but for the count, which is `n` in `t`, and the view of the read
pointer. -/
def WaitedTo (n : Nat) (s t : State) : Prop :=
  ∃ (c : BitVec 16) (a b : Ptr), c.toNat = n ∧ t.mem = s.mem ∧
    t.scan = { s.scan with cnt := c, wq1Rgray := a, wq2Rgray := b }

theorem waitedTo_of_scan_eq {s t : State} (scan : t.scan = s.scan) (mem : t.mem = s.mem) :
    WaitedTo s.scan.cnt.toNat s t := ⟨_, _, _, rfl, mem, scan⟩

theorem WaitedTo.trans {m n : Nat} {s t u : State} (h : WaitedTo m s t) (h' : WaitedTo n t u) : WaitedTo n s u := by
  obtain ⟨c, a, b, -, mem, scan⟩ := h
  obtain ⟨c', a', b', count, mem', scan'⟩ := h'
  exact ⟨c', a', b', count, mem'.trans mem, by rw [scan', scan]⟩

theorem WaitedTo.cnt {n : Nat} {s t : State} (h : WaitedTo n s t) : t.scan.cnt.toNat = n := by
  obtain ⟨c, a, b, count, -, scan⟩ := h
  rw [scan, count]

theorem WaitedTo.sphase {n : Nat} {s t : State} (h : WaitedTo n s t) : t.scan.sphase = s.scan.sphase := by
  obtain ⟨c, a, b, -, -, scan⟩ := h
  rw [scan]

theorem afterEdge_of_settle {e : Edge} {s : State} (scan : edgeIsScan e = true) (phase : s.scan.sphase = .settle) :
    afterEdge e s = syncR2W (atEdge e s) (opSettle (atEdge e s)) := by
  rw [afterEdge_of_scan scan]
  simp only [scanAction, atEdge_scan, phase]

/-- A `scan_clk` edge of a wait that is not at its end counts down. -/
theorem waitedTo_afterEdge {n : Nat} {e : Edge} {s : State} (scan : edgeIsScan e = true)
    (phase : s.scan.sphase = .settle) (count : s.scan.cnt.toNat = n + 1) (more : 0 < n) :
    WaitedTo n s (afterEdge e s) := by
  rw [afterEdge_of_settle scan phase]
  rcases opSettle_cases (atEdge e s) with ⟨ends, -⟩ | ⟨-, counts⟩
  · rw [BitVec.le_def, atEdge_scan, count] at ends
    exact absurd ends (by simp; omega)
  · rw [counts]
    exact ⟨s.scan.cnt - 1#16, _, _, by bv_omega, rfl, rfl⟩

/-- The Scanner waits in SETTLE after every edge of a run with fewer scan edges than its count. -/
theorem waitedTo_lastState {n : Nat} {es : List Edge} {s : State} (clocks : ∀ e ∈ es, edgeIsClock e = true)
    (phase : s.scan.sphase = .settle) (count : s.scan.cnt.toNat = scanSteps es + (n + 1)) :
    (∀ t ∈ trace es s, t.scan.sphase = .settle) ∧ WaitedTo (n + 1) s (lastState es s) := by
  induction es generalizing s with
  | nil => exact ⟨List.forall_mem_nil _, ⟨_, _, _, count.trans (Nat.zero_add _), rfl, rfl⟩⟩
  | cons e es ih =>
    obtain ⟨clock, clocks⟩ := List.forall_mem_cons.1 clocks
    have first : WaitedTo (scanSteps es + (n + 1)) s (afterEdge e s) := by
      rcases edgeIsScan_or_edgeIsUsb clock with scan | usb
      · rw [scanSteps_cons_scan scan] at count
        exact waitedTo_afterEdge scan phase (by omega) (by omega)
      · rw [scanSteps_cons_usb usb] at count
        obtain ⟨same, mem, -⟩ := afterEdge_usb_frame usb s
        exact count ▸ waitedTo_of_scan_eq same mem
    obtain ⟨waiting, rest⟩ := ih clocks (first.sphase.trans phase) first.cnt
    rw [trace_cons, lastState_cons]
    exact ⟨List.forall_mem_cons.2 ⟨first.sphase.trans phase, waiting⟩, first.trans rest⟩

/-- The `scan_clk` edge at a count of 1 ends the wait. -/
theorem afterEdge_settle_end {e : Edge} {s : State} (scan : edgeIsScan e = true) (phase : s.scan.sphase = .settle)
    (count : s.scan.cnt.toNat = 1) :
    (afterEdge e s).mem = s.mem ∧
      (afterEdge e s).scan =
        { s.scan with sphase := .sample, wq2Rgray := s.scan.wq1Rgray, wq1Rgray := s.usb.rgray } := by
  rw [afterEdge_of_settle scan phase]
  rcases opSettle_cases (atEdge e s) with ⟨-, ends⟩ | ⟨more, -⟩
  · rw [ends]
    exact ⟨rfl, rfl⟩
  · rw [BitVec.lt_def, atEdge_scan, count] at more
    exact absurd more (by decide)

/-! ### The place of the Scanner in its walk -/

/-- What of the Scanner's registers says where it is in the scan cycle, as numbers. -/
structure Place where
  phase : ScanPhase
  row : Nat
  col : Nat
  cnt : Nat
  settle : Nat

/-- The place of the scan registers; `place_afterEdge` ties its walk to the Scanner's. -/
def place (r : ScanRegs) : Place :=
  { phase := r.sphase, row := r.row.toNat, col := r.col.toNat, cnt := r.cnt.toNat, settle := r.settle.toNat }

/-- The place one scan step on, while scanning (R164 to R167). -/
def Place.next (p : Place) : Place :=
  match p.phase with
  | .strobe => { p with phase := .settle, col := 0, cnt := p.settle }
  | .settle => if p.cnt ≤ 1 then { p with phase := .sample } else { p with cnt := p.cnt - 1 }
  | .sample =>
    if p.col = 7 then { p with phase := .release }
    else { p with phase := .settle, col := p.col + 1, cnt := p.settle }
  | .release => { p with phase := .strobe, row := if p.row = 6 then 0 else (p.row + 1) % 8 }
  | .waitHs => p
  | .halted => p

theorem place_opSettle {s : State} (phase : s.scan.sphase = .settle) :
    place (opSettle s).scan = (place s.scan).next := by
  rcases opSettle_cases s with ⟨ends, e⟩ | ⟨more, e⟩ <;> rw [e]
  · have last : s.scan.cnt.toNat ≤ 1 := BitVec.le_def.1 ends
    simp [place, Place.next, phase, last]
  · have counting : ¬ s.scan.cnt.toNat ≤ 1 := Nat.not_le.2 (BitVec.lt_def.1 more)
    have down : (s.scan.cnt - 1#16).toNat = s.scan.cnt.toNat - 1 := by bv_omega
    simp [place, Place.next, phase, counting, down, -BitVec.toNat_sub]

theorem place_advanced {r : ScanRegs} (phase : r.sphase = .sample) : place (advanced r) = (place r).next := by
  by_cases last : r.col.toNat = 7
  · simp [advanced, place, Place.next, phase, last]
  · have up : (r.col + 1#3).toNat = r.col.toNat + 1 := by bv_omega
    simp [advanced, place, Place.next, phase, last, up, -BitVec.toNat_add]

/-- A sample that does not halt the Scanner moves it on, whether it took an edge or not (R166). -/
theorem place_opSample {s : State} (phase : s.scan.sphase = .sample) (running : (opSample s).scan.sphase ≠ .halted) :
    place (opSample s).scan = (place s.scan).next := by
  rcases noEdgeAt_or_edgeAt s with same | ⟨k, taken⟩
  · rw [opSample_of_noEdge same]
    exact place_advanced phase
  · cases room : wfull s
    · rw [opSample_of_edge_room taken room]
      exact place_advanced (r := { s.scan with
        snap := setSnapBit s.scan.snap k (samplePressed s), wbin := s.scan.wbin + 1#8,
        wgray := bin2gray (s.scan.wbin + 1#8) }) phase
    · rw [opSample_of_edge_full taken room] at running
      exact absurd rfl running

theorem place_opRelease {s : State} (phase : s.scan.sphase = .release) :
    place (opRelease s).scan = (place s.scan).next := by
  have last : s.scan.row = 6#3 ↔ s.scan.row.toNat = 6 := by rw [← BitVec.toNat_inj]; rfl
  simp only [opRelease, State.withScan_scan, place, Place.next, phase, last]
  split
  · rfl
  · simp

/-- A Scanner action of a scanning phase that does not halt it moves it one place on. -/
theorem place_scanAction {s : State} (scans : scanning s.scan.sphase = true)
    (running : (scanAction s).scan.sphase ≠ .halted) : place (scanAction s).scan = (place s.scan).next := by
  cases phase : s.scan.sphase <;> simp only [scanAction, phase] at running ⊢
  case waitHs | halted => simp [phase, scanning] at scans
  case strobe => simp [opStrobe, place, Place.next, phase]
  case settle => exact place_opSettle phase
  case sample => exact place_opSample phase running
  case release => exact place_opRelease phase

theorem place_afterEdge {e : Edge} {s : State} (scan : edgeIsScan e = true) (scans : scanning s.scan.sphase = true)
    (running : (afterEdge e s).scan.sphase ≠ .halted) : place (afterEdge e s).scan = (place s.scan).next := by
  rw [afterEdge_of_scan scan] at running ⊢
  exact place_scanAction (s := atEdge e s) scans running

/-- The raw indices sampled in the step from a place (R169). -/
def Place.sampled (p : Place) : List Nat := if p.phase = .sample then [p.row * 8 + p.col] else []

theorem sampledRaws_cons_scan {e : Edge} (scan : edgeIsScan e = true) (es : List Edge) (s : State) :
    sampledRaws (e :: es) s = (place s.scan).sampled ++ sampledRaws es (afterEdge e s) := by
  by_cases phase : s.scan.sphase = .sample <;>
    simp [sampledRaws_cons, scan, Place.sampled, place, phase, toNat_posRaw]

theorem sampledRaws_cons_usb {e : Edge} (usb : edgeIsUsb e = true) (es : List Edge) (s : State) :
    sampledRaws (e :: es) s = sampledRaws es (afterEdge e s) := by
  simp [sampledRaws_cons, edgeIsScan_eq_false usb]

/-! ### The scan cycle as a counter (R289) -/

/-- The scan steps of one row: STROBE, a settle wait and a SAMPLE for each of the 8 columns, RELEASE. -/
def rowSteps (settle : Nat) : Nat := 2 + 8 * (settle + 1)

/-- A place of the scan cycle: a row and a column of the matrix, and a count within its settle wait. -/
structure Place.InCycle (p : Place) : Prop where
  phase : scanning p.phase = true
  row : p.row ≤ 6
  col : p.col ≤ 7
  length : 1 ≤ p.settle
  count : p.phase = .settle → 1 ≤ p.cnt ∧ p.cnt ≤ p.settle

/-- How many scan steps of its row lie behind a place. -/
def Place.inRow (p : Place) : Nat :=
  match p.phase with
  | .settle => 1 + p.col * (p.settle + 1) + (p.settle - p.cnt)
  | .sample => 1 + p.col * (p.settle + 1) + p.settle
  | .release => 1 + 8 * (p.settle + 1)
  | .strobe => 0
  | .waitHs => 0
  | .halted => 0

/-- How many scan steps of the cycle lie behind a place. -/
def Place.steps (p : Place) : Nat := p.row * rowSteps p.settle + p.inRow

/-- How many positions of the cycle were sampled before a place. -/
def Place.done (p : Place) : Nat :=
  match p.phase with
  | .settle => p.row * 8 + p.col
  | .sample => p.row * 8 + p.col
  | .release => p.row * 8 + 8
  | .strobe => p.row * 8
  | .waitHs => 0
  | .halted => 0

/-- The last place of the cycle: RELEASE of row 6. -/
def Place.AtEnd (p : Place) : Prop := p.phase = .release ∧ p.row = 6

theorem Place.next_settle (p : Place) : p.next.settle = p.settle := by
  obtain ⟨phase, row, col, cnt, settle⟩ := p
  cases phase <;> simp only [Place.next] <;> split <;> rfl

theorem Place.InCycle.next {p : Place} (h : p.InCycle) : p.next.InCycle := by
  obtain ⟨phase, row, col, cnt, settle⟩ := p
  obtain ⟨scans, hrow, hcol, length, count⟩ := h
  cases phase <;> simp only [Place.next]
  case waitHs | halted => simp [scanning] at scans
  case strobe => exact ⟨rfl, hrow, Nat.zero_le _, length, fun _ => ⟨length, le_refl _⟩⟩
  case settle =>
    obtain ⟨lower, upper⟩ := count rfl
    simp only at lower upper
    split
    · exact ⟨rfl, hrow, hcol, length, nofun⟩
    · exact ⟨rfl, hrow, hcol, length, fun _ => ⟨by simp only; omega, by simp only; omega⟩⟩
  case sample =>
    split
    · exact ⟨rfl, hrow, hcol, length, nofun⟩
    · exact ⟨rfl, hrow, by simp only at hcol ⊢; omega, length, fun _ => ⟨length, le_refl _⟩⟩
  case release => exact ⟨rfl, by simp only at hrow ⊢; split <;> omega, hcol, length, nofun⟩

/-- One scan step is one step of the cycle, up to its last place. -/
theorem Place.InCycle.steps_next {p : Place} (h : p.InCycle) (more : ¬ p.AtEnd) : p.next.steps = p.steps + 1 := by
  obtain ⟨phase, row, col, cnt, settle⟩ := p
  obtain ⟨scans, hrow, hcol, length, count⟩ := h
  cases phase <;> simp only [Place.next]
  case waitHs | halted => simp [scanning] at scans
  case strobe => simp [Place.steps, Place.inRow]
  case settle =>
    obtain ⟨lower, upper⟩ := count rfl
    simp only at lower upper
    split <;> simp only [Place.steps, Place.inRow] <;> omega
  case sample =>
    split
    · next last => simp only [Place.steps, Place.inRow, last]; omega
    · simp only [Place.steps, Place.inRow, Nat.succ_mul]; omega
  case release =>
    have within : (row + 1) % 8 = row + 1 := Nat.mod_eq_of_lt (by simp only at hrow; omega)
    have not_last : row ≠ 6 := fun last => more ⟨rfl, last⟩
    simp only [Place.steps, Place.inRow, if_neg not_last, within, Nat.succ_mul]
    rw [rowSteps]; omega

/-- A place lies within its cycle of 7 rows. -/
theorem Place.InCycle.steps_lt {p : Place} (h : p.InCycle) : p.steps < 7 * rowSteps p.settle := by
  have in_row : p.inRow < rowSteps p.settle := by
    have columns : p.col * (p.settle + 1) ≤ 7 * (p.settle + 1) := Nat.mul_le_mul_right _ h.col
    unfold Place.inRow rowSteps
    split <;> omega
  calc p.row * rowSteps p.settle + p.inRow < (p.row + 1) * rowSteps p.settle := by rw [Nat.succ_mul]; omega
    _ ≤ 7 * rowSteps p.settle := Nat.mul_le_mul_right _ (Nat.succ_le_succ h.row)

/-- The step from the last place ends the cycle: every position is sampled, and STROBE of row 0 is next. -/
theorem Place.AtEnd.next {p : Place} (h : p.AtEnd) :
    p.steps + 1 = 7 * rowSteps p.settle ∧ p.done = 56 ∧ p.sampled = [] ∧ p.next.phase = .strobe ∧ p.next.row = 0 := by
  obtain ⟨phase, row, col, cnt, settle⟩ := p
  obtain ⟨rfl, rfl⟩ := h
  refine ⟨?_, rfl, rfl, rfl, rfl⟩
  simp only [Place.steps, Place.inRow, rowSteps]
  omega

/-- The positions still to be sampled are the one sampled in this step, if one is, and those after it (R169). -/
theorem Place.InCycle.sampled_append {p : Place} (h : p.InCycle) (more : ¬ p.AtEnd) :
    p.sampled ++ List.range' p.next.done (56 - p.next.done) = List.range' p.done (56 - p.done) := by
  obtain ⟨phase, row, col, cnt, settle⟩ := p
  obtain ⟨scans, hrow, hcol, length, count⟩ := h
  cases phase <;> simp only [Place.next]
  case waitHs | halted => simp [scanning] at scans
  case strobe => rfl
  case settle => split <;> rfl
  case sample =>
    simp only at hrow hcol
    have left : 56 - (row * 8 + col) = 56 - (row * 8 + col + 1) + 1 := by omega
    split
    · next last => subst last; simp [Place.sampled, Place.done, left, List.range'_succ]
    · simp [Place.sampled, Place.done, left, List.range'_succ, Nat.add_assoc]
  case release =>
    have within : (row + 1) % 8 = row + 1 := Nat.mod_eq_of_lt (by simp only at hrow; omega)
    have not_last : row ≠ 6 := fun last => more ⟨rfl, last⟩
    simp [Place.sampled, Place.done, not_last, within, Nat.succ_mul]

/-- From a place of the cycle, a run with the scan steps that are left of it samples the positions that are left, and ends
at STROBE of row 0. -/
theorem sampledRaws_of_inCycle {es : List Edge} {s : State} (clocks : ∀ e ∈ es, edgeIsClock e = true)
    (inCycle : (place s.scan).InCycle)
    (left : (place s.scan).steps + scanSteps es = 7 * rowSteps (place s.scan).settle)
    (running : (lastState es s).scan.sphase ≠ .halted) :
    sampledRaws es s = List.range' (place s.scan).done (56 - (place s.scan).done) ∧
      (place (lastState es s).scan).phase = .strobe ∧ (place (lastState es s).scan).row = 0 ∧
      (place (lastState es s).scan).settle = (place s.scan).settle := by
  induction es generalizing s with
  | nil => exact absurd left (Nat.ne_of_lt inCycle.steps_lt)
  | cons e es ih =>
    obtain ⟨clock, clocks⟩ := List.forall_mem_cons.1 clocks
    rw [lastState_cons] at running ⊢
    rcases edgeIsScan_or_edgeIsUsb clock with scan | usb
    · have walk := place_afterEdge scan inCycle.phase (mt (halted_lastState clocks) running)
      rw [scanSteps_cons_scan scan] at left
      rw [sampledRaws_cons_scan scan]
      by_cases last : (place s.scan).AtEnd
      · obtain ⟨steps, done, none_sampled, phase, row⟩ := last.next
        obtain ⟨stands, no_samples⟩ := lastState_of_no_scanSteps (s := afterEdge e s) clocks (by omega)
        rw [no_samples, none_sampled, done, stands, walk]
        exact ⟨rfl, phase, row, Place.next_settle _⟩
      · have steps := inCycle.steps_next last
        have rest := ih (s := afterEdge e s) clocks
        rw [walk, Place.next_settle] at rest
        obtain ⟨samples, phase, row, settle⟩ := rest inCycle.next (by omega) running
        rw [samples, inCycle.sampled_append last]
        exact ⟨rfl, phase, row, settle⟩
    · obtain ⟨same, -⟩ := afterEdge_usb_frame usb s
      rw [scanSteps_cons_usb usb] at left
      rw [sampledRaws_cons_usb usb]
      have rest := ih (s := afterEdge e s) clocks
      rw [same] at rest
      exact rest inCycle left running

end Sys2Proof.Machine

open Sys2Proof Sys2Proof.Machine

/-- Settles O57, by induction on the run: a scan edge counts down, a USB edge does not, and the edge at 1 ends the wait. -/
theorem settleWaitIsExact : Obligations.SettleWaitIsExact := by
  intro es e s clocks scan phase count t
  obtain ⟨waiting, waited⟩ := waitedTo_lastState clocks phase count
  have last : t = afterEdge e (lastState es s) := by simp only [t, lastState_append, lastState_cons, lastState_nil]
  obtain ⟨mem, ends⟩ := afterEdge_settle_end scan (waited.sphase.trans phase) waited.cnt
  obtain ⟨c, a, b, one, mem', scan'⟩ := waited
  obtain rfl : c = 1#16 := BitVec.eq_of_toNat_eq one
  refine ⟨waiting, ?_, ?_, fun scans => ?_⟩
  · rw [last, ends, scan']
  · rw [last, mem, mem']
  · rw [last, afterEdge_scan_usb scan, lastState_usb scans]

/-- Settles O58: STROBE of row 0 is the first place of the cycle, and the run has the scan steps of a whole one. -/
theorem scanCycleSamplesEveryPosition : Obligations.ScanCycleSamplesEveryPosition := by
  intro es s clocks phase row length steps running
  have first : place s.scan = ⟨.strobe, 0, s.scan.col.toNat, s.scan.cnt.toNat, s.scan.settle.toNat⟩ := by
    rw [place, phase, row]; rfl
  have inCycle : (place s.scan).InCycle := by
    rw [first]
    exact ⟨rfl, Nat.zero_le _, Nat.le_of_lt_succ s.scan.col.isLt, length, nofun⟩
  have left : (place s.scan).steps + scanSteps es = 7 * rowSteps (place s.scan).settle := by
    rw [first, steps]
    simp [Place.steps, Place.inRow, rowSteps]
  obtain ⟨samples, phase', row', settle'⟩ := sampledRaws_of_inCycle clocks inCycle left running
  refine ⟨?_, phase', BitVec.eq_of_toNat_eq row', BitVec.eq_of_toNat_eq settle'⟩
  rw [samples, first, List.range_eq_range']
  rfl

end

section
/-! PROOFS. Delivery (R186, R191, R211): a step takes nothing from the queue, or it is the successful end of an attempt
and takes the oldest unconsumed byte, whose packet the attempt held. -/
namespace Sys2Proof.Machine

/-! ### The oldest unconsumed byte -/

/-- The oldest unconsumed byte is that of the slot the read pointer addresses (R183). -/
theorem queueBytes_eq_cons {s : State} (nonempty : 0 < (tlevel s).toNat) :
    queueBytes s = readSlot s (slotOf s.usb.rbin) :: (queueBytes s).tail := by
  rw [queueBytes, toNat_tlevel_pop nonempty, List.range_succ_eq_map, List.map_cons, List.tail_cons, BitVec.add_zero]

/-- In ATTEMPT the held byte is the oldest unconsumed one, and the lanes are its packet (R186, R207). -/
theorem BlockInv.held {s : State} (h : BlockInv s) (attempt : s.usb.tphase = .attempt) :
    queueBytes s = s.usb.hold :: (queueBytes s).tail ∧
      ∃ k e, decodeEvt s.usb.hold = some (k, e) ∧ txLanes s = encodePkt k e := by
  obtain ⟨seen, stored, packet⟩ := h.tx.inFlight attempt
  have head : readSlot s (slotOf s.usb.rbin) = s.usb.hold := by rw [readSlot, stored, Option.getD_some]
  exact ⟨head ▸ queueBytes_eq_cons (h.queue.tlevel_pos_of_not_empty seen), packet⟩

/-! ### What an action takes from the queue -/

/-- From `s` to `t` nothing is popped and nothing delivered, and the read pointer stands. -/
structure TakesNothing (s t : State) : Prop where
  pop : t.obs.pop = false
  delivered : t.obs.delivered = none
  rbin : t.usb.rbin = s.usb.rbin

theorem takesNothing_of_quiet {s t : State} (quiet : s.obs = Obs.quiet) (pop : t.obs.pop = s.obs.pop)
    (delivered : t.obs.delivered = s.obs.delivered) (rbin : t.usb.rbin = s.usb.rbin) : TakesNothing s t :=
  ⟨by rw [pop, quiet]; rfl, by rw [delivered, quiet]; rfl, rbin⟩

/-- From `s` to `t` the oldest unconsumed byte `b` is popped and its packet delivered, with its SENT record (R211). -/
structure TakesOldest (b : Byte) (s t : State) : Prop where
  oldest : queueBytes s = b :: (queueBytes s).tail
  packet : ∃ k e, decodeEvt b = some (k, e) ∧ t.obs.delivered = some (encodePkt k e)
  pop : t.obs.pop = true
  push : t.obs.push = none
  rbin : t.usb.rbin = s.usb.rbin + 1#8
  record : t.usb.diagValid = true ∧ t.usb.diagCode = .sent ∧ t.usb.diagByte = b

/-- An attempt takes nothing while it waits or fails, and takes the byte it holds when it succeeds (R203). -/
theorem BlockInv.opAttempt_takes {s : State} (h : BlockInv s) (quiet : s.obs = Obs.quiet)
    (attempt : s.usb.tphase = .attempt) :
    TakesNothing s (opAttempt s) ∨ ∃ b, TakesOldest b s (opAttempt s) := by
  rcases opAttempt_cases s with ⟨-, e⟩ | ⟨-, -, e⟩ | ⟨-, -, e⟩ <;> rw [e]
  · exact .inl (takesNothing_of_quiet quiet rfl rfl rfl)
  · obtain ⟨oldest, k, p, decoded, lanes⟩ := h.held attempt
    have pushed_none : s.obs.push = none := by rw [quiet]; rfl
    exact .inr ⟨s.usb.hold, oldest, ⟨k, p, decoded, congrArg some lanes⟩, rfl, pushed_none, rfl, rfl, rfl, rfl⟩
  · exact .inl (takesNothing_of_quiet quiet rfl rfl rfl)

theorem BlockInv.usbAction_takes {s : State} (h : BlockInv s) (quiet : s.obs = Obs.quiet) :
    TakesNothing s (Machine.usbAction s) ∨ ∃ b, TakesOldest b s (Machine.usbAction s) := by
  cases phase : s.usb.tphase <;> simp only [Machine.usbAction, phase]
  case service =>
    refine .inl ?_
    simp only [opService]
    split <;> exact takesNothing_of_quiet quiet rfl rfl rfl
  case peek =>
    refine .inl ?_
    rcases opPeek_cases s with ⟨-, e⟩ | ⟨_, -, -, e⟩ | ⟨_, _, _, -, -, e⟩ <;> rw [e] <;>
      exact takesNothing_of_quiet quiet rfl rfl rfl
  case attempt => exact h.opAttempt_takes quiet phase
  case halted => exact .inl (takesNothing_of_quiet quiet rfl rfl rfl)

/-- The same of a step: the clear of `diag_valid` comes before the action, and the shift after it touches no more than
the views. -/
theorem BlockInv.step_takes {s t : State} (h : BlockInv s) (not_reset : nextEvent s ≠ .edge .reset)
    (hs : step s = .next t) : TakesNothing s t ∨ ∃ b, TakesOldest b s t := by
  obtain ⟨e, hev⟩ := h.composed.nextEvent
  cases e with
  | scan v d c =>
    obtain rfl := Host.Outcome.next.inj ((step_scanEdge hev).symm.trans hs)
    have frame := scanAction_frame (Machine.takeEvent s)
    exact .inl ⟨frame.pop, frame.delivered, congrArg UsbRegs.rbin frame.usb⟩
  | usb a b c =>
    obtain rfl := Host.Outcome.next.inj ((step_usbEdge hev).symm.trans hs)
    rcases h.takeEvent.clearDiag.usbAction_takes rfl with
      ⟨pop, delivered, rbin⟩ | ⟨x, oldest, packet, pop, push, rbin, record⟩
    · exact .inl ⟨pop, delivered, rbin⟩
    · exact .inr ⟨x, oldest, packet, pop, push, rbin, record⟩
  | reset => exact absurd hev not_reset

end Sys2Proof.Machine

open Sys2Proof.Machine

/-- Settles O50: a step that takes a byte takes the held one, which is the oldest, and the queue keeps the others since
it is first-in first-out. -/
theorem deliveryIsOfTheOldestByte : Obligations.DeliveryIsOfTheOldestByte := by
  intro s t h not_reset hs
  rcases h.step_takes not_reset hs with
    ⟨pop, delivered, rbin⟩ | ⟨b, oldest, ⟨k, e, decoded, delivered⟩, pop, push, rbin, record⟩
  · exact ⟨by simp [pop, delivered], fun _ => rbin, fun popped => by simp [pop] at popped⟩
  · have others : queueBytes t = (queueBytes s).tail := by
      simpa [pop, push] using queueIsFirstInFirstOut s t h not_reset hs
    exact ⟨by simp [pop, delivered], fun kept => by simp [pop] at kept,
      fun _ => ⟨b, _, k, e, oldest, others, rbin, decoded, delivered, record⟩⟩

end

section
/-! PROOFS. Single writer (R195, R226): the step that runs a format's word writes the registers of that format's domain
alone. A clock edge runs its phase register's code word, so one argument serves edges and ports. -/
namespace Sys2Proof.Machine

/-! ### What a step of a domain leaves alone -/

/-- From `s` to `t` nothing is written that a step of domain `d` may not write (R195, R226). -/
def WritesOnly (d : Domain) (s t : State) : Prop :=
  match d with
  | .scan => t.usb = s.usb
  | .usb => t.scan = s.scan ∧ t.mem = s.mem
  | .comb => SameBlock s t

theorem writesOnly_of_sameBlock {d : Domain} {s t : State} (h : SameBlock s t) : WritesOnly d s t := by
  obtain ⟨scan, mem, usb⟩ := h
  cases d with
  | scan => exact usb.symm
  | usb => exact ⟨scan.symm, mem.symm⟩
  | comb => exact ⟨scan, mem, usb⟩

theorem WritesOnly.trans {d : Domain} {s t u : State} (h : WritesOnly d s t) (h' : WritesOnly d t u) :
    WritesOnly d s u := by
  cases d with
  | scan => exact Eq.trans h' h
  | usb =>
    obtain ⟨scan, mem⟩ := h
    obtain ⟨scan', mem'⟩ := h'
    exact ⟨scan'.trans scan, mem'.trans mem⟩
  | comb =>
    obtain ⟨scan, mem, usb⟩ := h
    obtain ⟨scan', mem', usb'⟩ := h'
    exact ⟨scan.trans scan', mem.trans mem', usb.trans usb'⟩

/-! ### The operations -/

theorem opService_frame (s : State) : UsbFrame s (opService s) := by
  simp only [opService]
  split <;> constructor <;> rfl

theorem opPeek_frame (s : State) : UsbFrame s (opPeek s) := by
  rcases opPeek_cases s with ⟨-, e⟩ | ⟨_, -, -, e⟩ | ⟨_, _, _, -, -, e⟩ <;> rw [e] <;> constructor <;> rfl

theorem opAttempt_frame (s : State) : UsbFrame s (opAttempt s) := by
  rcases opAttempt_cases s with ⟨-, e⟩ | ⟨-, -, e⟩ | ⟨-, -, e⟩ <;> rw [e] <;> constructor <;> rfl

theorem tryPush_usb (b : Byte) (s : State) : (tryPush b s).usb = s.usb := by
  rcases tryPush_cases b s with ⟨-, e⟩ | ⟨-, e⟩ <;> rw [e]
  rfl

theorem UsbFrame.writesOnly {s t : State} (h : UsbFrame s t) : WritesOnly .usb s t := ⟨h.scan, h.mem⟩

/-- A USB action under input levels driven beside it leaves the scan domain and the storage. -/
theorem usbAction_withPins_writesOnly (s : State) (p : Pins) : WritesOnly .usb s (usbAction (s.withPins p)) :=
  (usbAction_frame (s.withPins p)).writesOnly

/-- Every operation writes the registers of its format's domain alone. -/
theorem exec_writesOnly {i : Instr} {s t : State} (h : exec i s = .next t) : WritesOnly (domainOf i.format) s t := by
  cases i with
  | waitHs => exact Host.Outcome.next.inj h ▸ (opWaitHs_frame s).usb
  | settle => exact Host.Outcome.next.inj h ▸ (opSettle_frame s).usb
  | sample => exact Host.Outcome.next.inj h ▸ (opSample_frame s).usb
  | strobe | release | halted => exact Host.Outcome.next.inj h ▸ rfl
  | push d => exact Host.Outcome.next.inj h ▸ tryPush_usb d s
  | handoff f =>
    exact Host.Outcome.next.inj h ▸ (scanAction_frame (s.withPins { s.pins with hsValid := true, hsData := f })).usb
  | service => exact Host.Outcome.next.inj h ▸ (opService_frame s).writesOnly
  | peek => exact Host.Outcome.next.inj h ▸ (opPeek_frame s).writesOnly
  | attempt => exact Host.Outcome.next.inj h ▸ (opAttempt_frame s).writesOnly
  | svcDone | txDoneOk | txDoneFail => exact Host.Outcome.next.inj h ▸ usbAction_withPins_writesOnly s _
  | haltedTx | pop | peekQ | diagSent b | diagSendFail b | diagFatalDecode b =>
    exact Host.Outcome.next.inj h ▸ ⟨rfl, rfl⟩
  | noteOn c n | noteOff c n => exact Host.Outcome.next.inj h ▸ ⟨rfl, rfl, rfl⟩
  | evtPress k | evtRelease k =>
    simp only [exec, execEvtPress, execEvtRelease] at h
    split at h
    · exact Host.Outcome.next.inj h ▸ ⟨rfl, rfl, rfl⟩
    · exact nomatch h

/-- So does the step of a port's idle pattern. -/
theorem idleStep_writesOnly (f : Format) (s : State) : WritesOnly (domainOf f) s (idleStep f s) := by
  cases f with
  | hs33 => exact (scanAction_frame (s.withPins { s.pins with hsValid := false })).usb
  | svc1 | txd2 => exact usbAction_withPins_writesOnly s _
  | sphase | tphase | wport | rport | evt8 | usbmidi4 | diag11 => exact writesOnly_of_sameBlock ⟨rfl, rfl, rfl⟩

/-! ### The step around the operation -/

theorem beforeStep_writesOnly (d : Domain) (s : State) : WritesOnly d s (beforeStep d s) := by
  cases d with
  | scan => rfl
  | usb => exact ⟨rfl, rfl⟩
  | comb => exact ⟨rfl, rfl, rfl⟩

theorem afterStep_writesOnly (d : Domain) (pre s : State) : WritesOnly d s (afterStep d pre s) := by
  cases d with
  | scan => rfl
  | usb => exact ⟨rfl, rfl⟩
  | comb => exact ⟨rfl, rfl, rfl⟩

theorem mapNext_eq_next {g : State → State} {o : Host.Outcome State Fault Refusal} {t : State}
    (h : mapNext g o = .next t) : ∃ u, o = .next u ∧ g u = t := by
  cases o with
  | next u => exact ⟨u, rfl, Host.Outcome.next.inj h⟩
  | fault r => exact nomatch h
  | refused r => exact nomatch h

theorem stepWord_of_idle {f : Format} {w : Code} (h : decode f w = .error .idle) (s : State) :
    stepWord f w s = .next (afterStep (domainOf f) s (idleStep f (beforeStep (domainOf f) s))) := by
  simp [stepWord, h]

/-- A format's word runs an operation of that format (R126), or it is idle; a reserved one has no next state. -/
theorem stepWord_writesOnly {f : Format} {w : Code} {s t : State} (h : stepWord f w s = .next t) :
    WritesOnly (domainOf f) s t := by
  have before := beforeStep_writesOnly (domainOf f) s
  rcases word : decode f w with r | i
  · by_cases idle : r = .idle
    · subst idle
      obtain rfl := Host.Outcome.next.inj ((stepWord_of_idle word s).symm.trans h)
      exact (before.trans (idleStep_writesOnly f _)).trans (afterStep_writesOnly _ s _)
    · exact nomatch (stepWord_of_reserved word idle s).symm.trans h
  · obtain ⟨u, answer, rfl⟩ := mapNext_eq_next ((stepWord_of_ok word s).symm.trans h)
    obtain ⟨-, rfl, -⟩ := decodedWordIsTheEncoding f w i word
    exact (before.trans (exec_writesOnly answer)).trans (afterStep_writesOnly _ s _)

/-- Taking the event writes no register and no slot. -/
theorem step_writesOnly {s t : State} {f : Format} {w : Code} (h : fetchWord s = some (f, w))
    (hs : step s = .next t) : WritesOnly (domainOf f) s t :=
  have taken : WritesOnly (domainOf f) s (takeEvent s) := writesOnly_of_sameBlock ⟨rfl, rfl, rfl⟩
  taken.trans (stepWord_writesOnly ((step_of_fetchWord h).symm.trans hs))

end Sys2Proof.Machine

open Sys2Proof Sys2Proof.Machine

/-- Settles O39: an edge runs a word of SPHASE or TPHASE, a port the word driven on it, each in its format's domain. -/
theorem domainsWriteOnlyTheirOwn : Obligations.DomainsWriteOnlyTheirOwn := by
  intro s t hs
  refine ⟨fun v d c hev => ?_, fun a b c hev => ?_, fun f w hev => ?_⟩
  · have word : fetchWord s = some (.sphase, (sphaseCode s.scan.sphase).setWidth 40) := by rw [fetchWord, hev]
    exact step_writesOnly word hs
  · have word : fetchWord s = some (.tphase, (tphaseCode s.usb.tphase).setWidth 40) := by rw [fetchWord, hev]
    exact step_writesOnly word hs
  · have word : fetchWord s = some (f, w) := by rw [fetchWord, hev]
    have own := step_writesOnly word hs
    exact ⟨fun scan => by rwa [scan] at own, fun usb => by rwa [usb] at own, fun comb => by rwa [comb] at own⟩

end

section
/-! PROOFS. The queue's own operations (R181 to R185), its levels and capacity (R189, R190, R192), and how its pointers
cross between the domains (R187, R188, R194). -/
namespace Sys2Proof.Machine

/-! ### The levels -/

/-- The read side's level is how far its view of the write pointer is ahead of the read pointer (R67). -/
theorem toNat_rlevel_eq_ptrDist (s : State) : (rlevel s).toNat = ptrDist s.usb.rbin (gray2bin s.usb.rq2Wgray) := rfl

/-- The three levels and the depth in order (R189): each is the one before and pointer moves still crossing. -/
theorem QueueInv.levels {s : State} (h : QueueInv s) :
    (rlevel s).toNat ≤ (tlevel s).toNat ∧ (tlevel s).toNat ≤ (wlevel s).toNat ∧ (wlevel s).toNat ≤ 128 := by
  have order : _ ≤ 128 := h.order
  have read_side := toNat_rlevel_eq_ptrDist s
  have true_level := h.toNat_tlevel
  have write_side := h.toNat_wlevel
  omega

/-- A queue that holds its depth is seen full, as the write side's level lies between the two (R192). -/
theorem QueueInv.wlevel_of_capacity {s : State} (h : QueueInv s) (capacity : (tlevel s).toNat = 128) :
    (wlevel s).toNat = 128 := by
  obtain ⟨-, lower, upper⟩ := h.levels
  omega

/-! ### The unconsumed slots along a step -/

theorem readSlot_congr {s t : State} (mem : t.mem = s.mem) (resets : t.resets = s.resets) (a : Nat) :
    readSlot t a = readSlot s a := by
  rw [readSlot, readSlot, mem, resets]

/-- A Scanner action stores to no slot that holds an unconsumed byte (R190). -/
theorem BlockInv.readSlot_scanAction {s : State} (h : BlockInv s) {j : Nat} (unconsumed : j < (tlevel s).toNat) :
    readSlot (Machine.scanAction s) (slotOf (s.usb.rbin + BitVec.ofNat 8 j)) =
      readSlot s (slotOf (s.usb.rbin + BitVec.ofNat 8 j)) := by
  rcases scanAction_fifo s with same | ⟨b, room, pushed⟩
  · exact same.readSlot _
  · exact (pushed.readSlot _).trans
      (readSlot_push_other b (slotOf_unconsumed_ne (h.queue.tlevel_lt_of_not_full room) unconsumed))

/-! ### The pointers' crossing -/

theorem afterEdge_of_usb {e : Edge} (h : edgeIsUsb e = true) (s : State) :
    afterEdge e s = syncW2R (atEdge e s) (usbAction (clearDiag (atEdge e s))) := by
  cases e with
  | usb a b c => rfl
  | scan | reset => exact nomatch h

/-- A `usb_clk` edge moves the views of the write pointer one stage on (R188). -/
theorem afterEdge_usb_views {e : Edge} (h : edgeIsUsb e = true) (s : State) :
    (afterEdge e s).usb.rq1Wgray = s.scan.wgray ∧ (afterEdge e s).usb.rq2Wgray = s.usb.rq1Wgray := by
  rw [afterEdge_of_usb h]
  exact ⟨rfl, rfl⟩

/-- A `scan_clk` edge moves the views of the read pointer one stage on (R187). -/
theorem afterEdge_scan_views {e : Edge} (h : edgeIsScan e = true) (s : State) :
    (afterEdge e s).scan.wq1Rgray = s.usb.rgray ∧ (afterEdge e s).scan.wq2Rgray = s.scan.wq1Rgray := by
  rw [afterEdge_of_scan h]
  exact ⟨rfl, rfl⟩

/-- Along a run of `usb_clk` edges the scan domain stands (R195). -/
theorem lastState_scan {es : List Edge} {s : State} (usbs : ∀ e ∈ es, edgeIsUsb e = true) :
    (lastState es s).scan = s.scan := by
  induction es generalizing s with
  | nil => rfl
  | cons e es ih =>
    obtain ⟨usb, usbs⟩ := List.forall_mem_cons.1 usbs
    obtain ⟨stands, -⟩ := afterEdge_usb_frame usb s
    rw [lastState_cons, ih usbs, stands]

end Sys2Proof.Machine

open Sys2Proof Sys2Proof.Machine

/-- Settles O46: the pointers stand in the order of the good state's queue, and each level is a stretch of it. -/
theorem levelsAreOrdered : Obligations.LevelsAreOrdered := fun _ h => h.queue.levels

/-- Settles O47: 128 unconsumed bytes leave the write side's view no slack, and SAMPLE's edge on a full queue writes the
snapshot, the lost byte and the halt alone. -/
theorem capacityBoundary : Obligations.CapacityBoundary := by
  intro s h capacity
  have level := h.queue.wlevel_of_capacity capacity
  have full := (wfull_iff_toNat s).2 level
  refine ⟨level, full, fun k position differs => ⟨_, rfl, ?_⟩⟩
  rw [opSample_of_edge_full ⟨position, differs⟩ full]
  exact ⟨rfl, rfl, rfl, rfl, rfl, rfl⟩

/-- Settles O48: a push goes to a slot past the unconsumed ones, and a USB step stores nothing. -/
theorem noUnconsumedByteIsOverwritten : Obligations.NoUnconsumedByteIsOverwritten := by
  intro s t h not_reset hs
  have good := everyStepKeepsAGoodState s t h hs
  obtain ⟨-, bound, depth⟩ := good.queue.levels
  refine ⟨bound.trans depth, fun j unconsumed => ?_⟩
  obtain ⟨e, hev⟩ := h.composed.nextEvent
  cases e with
  | scan v d c =>
    obtain rfl := Host.Outcome.next.inj ((step_scanEdge hev).symm.trans hs)
    exact h.takeEvent.readSlot_scanAction unconsumed
  | usb a b c =>
    obtain rfl := Host.Outcome.next.inj ((step_usbEdge hev).symm.trans hs)
    have frame := usbAction_frame (clearDiag (takeEvent s))
    exact readSlot_congr frame.mem frame.resets _
  | reset => exact absurd hev not_reset

/-- Settles O59: the first step of the receiving domain takes the pointer into its first view, the steps of the other
domain leave it there, and the second step takes it into the view that is read. -/
theorem pointersCrossInTwoSteps : Obligations.PointersCrossInTwoSteps := by
  refine ⟨fun e1 e2 es s usb1 usb2 between => ?_, fun e1 e2 es s scan1 scan2 between => ?_⟩
  · obtain ⟨captured, still_old⟩ := afterEdge_usb_views usb1 s
    obtain ⟨-, crossed⟩ := afterEdge_usb_views usb2 (lastState es (afterEdge e1 s))
    simp only [lastState_cons, lastState_append, lastState_nil]
    exact ⟨still_old, by rw [crossed, lastState_usb between, captured]⟩
  · obtain ⟨captured, still_old⟩ := afterEdge_scan_views scan1 s
    obtain ⟨-, crossed⟩ := afterEdge_scan_views scan2 (lastState es (afterEdge e1 s))
    simp only [lastState_cons, lastState_append, lastState_nil]
    exact ⟨still_old, by rw [crossed, lastState_scan between, captured]⟩

/-- Settles O24: the two results of the guarded push; the tail slot is the write pointer modulo 128. -/
theorem pushAppendsOrFindsFull : Obligations.PushAppendsOrFindsFull := by
  intro b s
  have answer : exec (.push b) s = .next (tryPush b s) := rfl
  rw [answer, ← slotOf_eq]
  rcases tryPush_cases b s with ⟨full, e⟩ | ⟨room, e⟩
  · rw [e, if_pos full]
  · rw [e, if_neg (by simp [room])]; rfl

/-- Settles O25: POP is the two writes of R185 from every state. -/
theorem popAdvancesTheReadPointer : Obligations.PopAdvancesTheReadPointer := fun _ => rfl

/-- Settles O26: what PEEK finds depends on registers and slots alone, and it writes none. -/
theorem queuePeekHasNoSideEffect : Obligations.QueuePeekHasNoSideEffect := by
  intro s
  refine ⟨_, rfl, ⟨rfl, rfl, rfl⟩, ?_, _, rfl, ⟨rfl, rfl, rfl⟩, rfl⟩
  rw [State.withObs_obs, ← slotOf_eq]
  rcases peekHead_cases s with ⟨empty, e⟩ | ⟨seen, e⟩
  · rw [e, if_pos ((rempty_iff s).1 empty)]
  · rw [e, if_neg fun same => by simp [(rempty_iff s).2 same] at seen]

end

section
/-! PROOFS. An early full (R193): a run from reset fills the queue, pops one byte that the write side has not yet seen
leave, and finds the queue full at the next edge, as program P6a of the vectors does. -/
namespace Sys2Proof.Machine

/-! ### Good states along a run -/

theorem BlockInv.afterEdge {s : State} (h : BlockInv s) (e : Edge) : BlockInv (afterEdge e s) :=
  have composed : Composed { s with events := [.edge e] } := by simp [Composed, eventIsEdge]
  everyStepKeepsAGoodState _ _ (h.of_eq composed rfl rfl rfl) (stepEdge_eq e s)

theorem BlockInv.lastState {s : State} (h : BlockInv s) (es : List Edge) : BlockInv (lastState es s) := by
  induction es generalizing s with
  | nil => exact h
  | cons e es ih =>
    rw [lastState_cons]
    exact ih (h.afterEdge e)

/-! ### The halt on a full queue -/

/-- A `scan_clk` edge that samples an edge on a full queue halts the Scanner and moves no pointer (R241). -/
theorem afterEdge_overflow {e : Edge} {s : State} {k : BitVec 7} (scan : edgeIsScan e = true)
    (phase : s.scan.sphase = .sample) (edge : EdgeAt k (atEdge e s)) (full : wfull s = true) :
    (afterEdge e s).scan.sphase = .halted ∧ (afterEdge e s).scan.sfatal = .overflow ∧
      tlevel (afterEdge e s) = tlevel s := by
  have action : scanAction (atEdge e s) = opSample (atEdge e s) := by simp only [scanAction, atEdge_scan, phase]
  rw [afterEdge_of_scan scan, action, opSample_of_edge_full edge full]
  exact ⟨rfl, rfl, rfl⟩

/-! ### The run -/

/-- `n` scan edges with every column at the level `level`; 0 is every key of the row pressed. -/
def scanAll (n : Nat) (level : Bool) : List Edge :=
  List.replicate n (.scan false 0#32 (if level then 0xFF#8 else 0#8))

/-- The Handoff with the shortest settle length, 3. All 49 keys are pressed in the first scan cycle and released in the
second; 30 more are pressed in the third, which stops at the sample of the 31st: 128 bytes. -/
def fillingRun : List Edge :=
  .scan true 1#32 0xFF#8 ::
    (scanAll (7 * rowSteps 3) false ++ scanAll (7 * rowSteps 3) true ++ scanAll (4 * rowSteps 3 + 12) false)

/-- The filling run, a USB step in which the read side comes to see the bytes, and an iteration that delivers the
oldest. No scan step carries its POP to the write side. -/
def earlyFullRun : List Edge := fillingRun ++ .usb false false false :: iteration true

theorem edgeIsClock_of_mem_scanAll {n : Nat} {level : Bool} {e : Edge} (h : e ∈ scanAll n level) :
    edgeIsClock e = true := by
  rw [List.eq_of_mem_replicate h]
  rfl

theorem edgeIsClock_of_mem_earlyFullRun {e : Edge} (h : e ∈ earlyFullRun) : edgeIsClock e = true := by
  simp only [earlyFullRun, fillingRun, iteration, List.cons_append, List.mem_cons, List.mem_append,
    List.not_mem_nil, or_false] at h
  rcases h with rfl | ((pressed | released) | pressed) | rfl | rfl | rfl | rfl
  · rfl
  · exact edgeIsClock_of_mem_scanAll pressed
  · exact edgeIsClock_of_mem_scanAll released
  · exact edgeIsClock_of_mem_scanAll pressed
  all_goals rfl

/-- Where the run ends: 127 bytes unconsumed, the write side seeing 128, in SAMPLE of key 30, last seen released. -/
theorem earlyFullRun_end :
    let s := lastState earlyFullRun State.reset
    (tlevel s).toNat = 127 ∧ wfull s = true ∧ s.scan.sphase = .sample ∧
      classify s.scan.row s.scan.col = .key 30#7 ∧ snapBit s.scan.snap 30#7 = false := by
  decide +kernel

/-- With every column low, a key last seen released has an edge. -/
theorem edgeAt_low {s : State} {k : BitVec 7} (v : Bool) (d : BitVec 32)
    (position : classify s.scan.row s.scan.col = .key k) (released : snapBit s.scan.snap k = false) :
    EdgeAt k (atEdge (.scan v d 0#8) s) := by
  have low : (0#8).getLsbD s.scan.col.toNat = false := BitVec.getLsbD_zero
  have pressed : samplePressed (atEdge (.scan v d 0#8) s) = true := congrArg not low
  exact ⟨position, by rw [pressed, atEdge_scan, released]; exact nofun⟩

end Sys2Proof.Machine

open Sys2Proof Sys2Proof.Machine

/-- Settles O53: the state where `earlyFullRun` ends is good as every state of a run from reset, and key 30 pressed in
it is an edge on a queue the write side sees full. -/
theorem earlyFullIsPossible : Obligations.EarlyFullIsPossible := by
  obtain ⟨level, full, phase, position, released⟩ := earlyFullRun_end
  have edge := edgeAt_low false 0#32 position released
  obtain ⟨halted, overflow, stands⟩ := afterEdge_overflow rfl phase edge full
  exact ⟨earlyFullRun, .scan false 0#32 0#8, _, fun _ => edgeIsClock_of_mem_earlyFullRun, rfl,
    blockInv_reset.lastState _, level, full, phase, stepEdge_eq _ _, halted, overflow, by rw [stands, level]⟩

end

section
/-! PROOFS. The Transmitter's four phases (43_transmit.md R200 to R205): each operation's next state written out, PEEK
through its three outcomes, the `usb_clk` edge that runs the phase, and which of its steps emit a record. -/
namespace Sys2Proof.Machine

/-! ### A phase's own operation is its action (R200) -/

theorem exec_txInstr (s : State) : exec (txInstr s.usb.tphase) s = .next (usbAction s) := by
  cases phase : s.usb.tphase <;> simp only [usbAction, phase] <;> rfl

/-! ### What PEEK finds and what it decodes (R183, R221) -/

theorem peekHead_eq_none_iff (s : State) : peekHead s = none ↔ s.usb.rgray = s.usb.rq2Wgray := by
  rw [← rempty_iff]
  rcases peekHead_cases s with ⟨empty, e⟩ | ⟨seen, e⟩
  · simp [e, empty]
  · simp [e, seen]

theorem peekHead_eq_some_iff (s : State) (b : Byte) :
    peekHead s = some b ↔ s.usb.rgray ≠ s.usb.rq2Wgray ∧ readSlot s (s.usb.rbin.toNat % 128) = b := by
  rw [Ne, ← rempty_iff, ← slotOf_eq]
  rcases peekHead_cases s with ⟨empty, e⟩ | ⟨seen, e⟩
  · simp [e, empty]
  · simp [e, seen]

theorem decodeEvt_eq_none_iff (b : Byte) : decodeEvt b = none ↔ 49 ≤ (b.extractLsb' 0 7).toNat := by
  simp only [decodeEvt, Config.nkeys, ge_iff_le, ite_eq_left_iff, reduceCtorEq, imp_false, not_not]

theorem decodeEvt_eq_some_iff (b : Byte) (k : BitVec 7) (e : Bool) :
    decodeEvt b = some (k, e) ↔ ¬ 49 ≤ (b.extractLsb' 0 7).toNat ∧ b.extractLsb' 0 7 = k ∧ b.getLsbD 7 = e := by
  simp only [decodeEvt, Config.nkeys, ge_iff_le, Option.ite_none_left_eq_some, Option.some.injEq, Prod.mk.injEq]

/-! ### Which actions emit a record (R205) -/

/-- The step emits a record: an attempt is answered, or PEEK finds a reserved byte. -/
def EmitsRecord (s : State) : Prop :=
  (s.usb.tphase = .attempt ∧ s.pins.txDone = true) ∨
    (s.usb.tphase = .peek ∧ ∃ x, peekHead s = some x ∧ decodeEvt x = none)

/-- The diagnostic port shows the same in both states. -/
structure SameRecord (s t : State) : Prop where
  valid : t.usb.diagValid = s.usb.diagValid
  code : t.usb.diagCode = s.usb.diagCode
  byte : t.usb.diagByte = s.usb.diagByte

theorem opPeek_record {s : State} (phase : s.usb.tphase = .peek) :
    (EmitsRecord s ∧ (opPeek s).usb.diagValid = true) ∨ (¬ EmitsRecord s ∧ SameRecord s (opPeek s)) := by
  rcases opPeek_cases s with ⟨empty, e⟩ | ⟨b, head, reserved, e⟩ | ⟨b, k, p, head, legal, e⟩ <;> rw [e]
  · exact .inr ⟨by simp [EmitsRecord, phase, empty], rfl, rfl, rfl⟩
  · exact .inl ⟨.inr ⟨phase, b, head, reserved⟩, rfl⟩
  · exact .inr ⟨by simp [EmitsRecord, phase, head, legal], rfl, rfl, rfl⟩

theorem opAttempt_record {s : State} (phase : s.usb.tphase = .attempt) :
    (EmitsRecord s ∧ (opAttempt s).usb.diagValid = true) ∨ (¬ EmitsRecord s ∧ SameRecord s (opAttempt s)) := by
  rcases opAttempt_cases s with ⟨waits, e⟩ | ⟨done, -, e⟩ | ⟨done, -, e⟩ <;> rw [e]
  · exact .inr ⟨by simp [EmitsRecord, phase, waits], rfl, rfl, rfl⟩
  · exact .inl ⟨.inl ⟨phase, done⟩, rfl⟩
  · exact .inl ⟨.inl ⟨phase, done⟩, rfl⟩

/-- An action emits a record, which sets `diag_valid`, or leaves the diagnostic port (R205). -/
theorem usbAction_record (s : State) :
    (EmitsRecord s ∧ (usbAction s).usb.diagValid = true) ∨ (¬ EmitsRecord s ∧ SameRecord s (usbAction s)) := by
  cases phase : s.usb.tphase <;> simp only [usbAction, phase]
  case service =>
    refine .inr ⟨by simp [EmitsRecord, phase], ?_⟩
    simp only [opService]
    split <;> exact ⟨rfl, rfl, rfl⟩
  case peek => exact opPeek_record phase
  case attempt => exact opAttempt_record phase
  case halted => exact .inr ⟨by simp [EmitsRecord, phase], rfl, rfl, rfl⟩

end Sys2Proof.Machine

open Sys2Proof Sys2Proof.Machine

/-- Settles O21: the queue's flag selects the empty outcome, the byte's key index the reserved or the legal one. -/
theorem peekDecodesTheHead : Obligations.PeekDecodesTheHead := by
  intro s b k p
  have answer : exec .peek s = .next (opPeek s) := rfl
  rw [answer]
  rcases opPeek_cases s with ⟨empty, e⟩ | ⟨x, head, reserved, e⟩ | ⟨x, key, edge, head, legal, e⟩ <;> rw [e]
  · rw [if_pos ((peekHead_eq_none_iff s).1 empty)]
  · obtain ⟨seen, rfl⟩ := (peekHead_eq_some_iff s x).1 head
    have no_key : 49 ≤ k.toNat := (decodeEvt_eq_none_iff b).1 reserved
    rw [if_neg seen, if_pos no_key]
  · obtain ⟨seen, rfl⟩ := (peekHead_eq_some_iff s x).1 head
    obtain ⟨legal_key, rfl, rfl⟩ := (decodeEvt_eq_some_iff b key edge).1 legal
    have is_key : ¬ 49 ≤ k.toNat := legal_key
    rw [if_neg seen, if_neg is_key]

/-- Settles O41: the event and the clear leave the phase, the head and the recorded byte, and the shift after the action
leaves the diagnostic port. -/
theorem diagnosticRecordTiming : Obligations.DiagnosticRecordTiming := by
  intro s t a b c hev hs
  have emits : EmitsRecord (clearDiag (takeEvent s)) ↔ (s.usb.tphase = .attempt ∧ b = true) ∨
      (s.usb.tphase = .peek ∧ ∃ x, peekHead s = some x ∧ decodeEvt x = none) := by
    rw [EmitsRecord, clearDiag_pins, takeEvent_pins, hev]
    rfl
  rw [step_usbEdge hev] at hs
  obtain rfl := Host.Outcome.next.inj hs
  rw [← emits]
  rcases usbAction_record (clearDiag (takeEvent s)) with ⟨record, valid⟩ | ⟨no_record, valid, code, byte⟩
  · exact ⟨iff_of_true valid record, fun cleared => by simp [valid] at cleared⟩
  · exact ⟨iff_of_false (by simp [valid]) no_record, fun _ => ⟨code, byte⟩⟩

/-- Settles O20: SERVICE is its guarded phase write. -/
theorem serviceWaitsForTheTransport : Obligations.ServiceWaitsForTheTransport := fun _ => rfl

/-- Settles O22: the three outcomes of an attempt by its two inputs. -/
theorem attemptPopsOnlyOnSuccess : Obligations.AttemptPopsOnlyOnSuccess := by
  intro s
  have answer : exec .attempt s = .next (opAttempt s) := rfl
  rw [answer]
  rcases opAttempt_cases s with ⟨waits, e⟩ | ⟨done, ok, e⟩ | ⟨done, ok, e⟩ <;> rw [e]
  · rw [if_pos waits]
  · rw [if_neg (by simp [done]), if_pos ok]
  · rw [if_neg (by simp [done]), if_neg (by simp [ok])]

/-- Settles O23: HALTED is the identity, so its `usb_clk` edge does the clear and the synchroniser shift alone. -/
theorem haltedTransmitterOnlyShifts : Obligations.HaltedTransmitterOnlyShifts := by
  refine ⟨fun _ => rfl, fun s t a b c hev halted hs => ?_⟩
  have action : usbAction (clearDiag (takeEvent s)) = clearDiag (takeEvent s) := by
    simp only [usbAction, clearDiag_usb, takeEvent_usb, halted, opTxHalted]
  rw [step_usbEdge hev, action] at hs
  obtain rfl := Host.Outcome.next.inj hs
  have no_requests : svcReq (syncW2R (takeEvent s) (clearDiag (takeEvent s))) = false ∧
      txReq (syncW2R (takeEvent s) (clearDiag (takeEvent s))) = false := by
    simp [svcReq, txReq, halted]
  exact ⟨rfl, rfl, rfl, no_requests⟩

/-- Settles O36: the phase's operation is its action, and taking the event leaves the registers the clear and the shift
read. -/
theorem usbEdgeRunsThePhase : Obligations.UsbEdgeRunsThePhase := by
  intro s t a b c hev ht
  obtain rfl := Host.Outcome.next.inj ((exec_txInstr (clearDiag (takeEvent s))).symm.trans ht)
  rw [step_usbEdge hev]
  rfl

end

section
/-! PROOFS. Retry without duplication (R208): an answer to the attempt of the oldest byte is a failure, which leaves the
byte where it is with a SEND_FAIL record, or the success, which takes it. A run of failures and then the success is put
together edge by edge, from its end. -/
namespace Sys2Proof.Machine

/-! ### A run from one edge to the next -/

/-- The record of the step at the edge `e` that ends in `t`, if it emitted one (R205). -/
def recordAt (e : Edge) (t : State) : List (DiagCode × Byte) :=
  if edgeIsUsb e && t.usb.diagValid then [(t.usb.diagCode, t.usb.diagByte)] else []

/-- The packet whose presentation starts with the step from `s` to `t`, if one does (R146). -/
def presentedAt (s t : State) : List Packet := if !txReq s && txReq t then [txLanes t] else []

theorem trace_nil (s : State) : trace [] s = [] := rfl

theorem diagRecords_cons (e : Edge) (es : List Edge) (s : State) :
    diagRecords (e :: es) s = recordAt e (afterEdge e s) ++ diagRecords es (afterEdge e s) := by
  simp only [diagRecords, stepEdge_eq, recordAt]

theorem presentations_cons (e : Edge) (es : List Edge) (s : State) :
    presentations (e :: es) s = presentedAt s (afterEdge e s) ++ presentations es (afterEdge e s) := by
  simp only [presentations, stepEdge_eq, presentedAt]

theorem answers_cons (e : Edge) (es : List Edge) (s : State) :
    answers (e :: es) s = (answerOf e s).toList ++ answers es (afterEdge e s) := by
  simp only [answers, stepEdge_eq]

theorem answers_append (es es' : List Edge) (s : State) :
    answers (es ++ es') s = answers es s ++ answers es' (lastState es s) := by
  induction es generalizing s with
  | nil => rfl
  | cons e es ih => simp only [List.cons_append, answers_cons, lastState_cons, ih, List.append_assoc]

theorem deliveries_cons (e : Edge) (es : List Edge) (s : State) :
    deliveries (e :: es) s = (afterEdge e s).obs.delivered.toList ++ deliveries es (afterEdge e s) := by
  rw [deliveries, trace_cons, List.filterMap_cons, deliveries]
  cases (afterEdge e s).obs.delivered <;> rfl

/-! ### A good state at an edge -/

theorem BlockInv.withEdge {s : State} (h : BlockInv s) (e : Edge) : BlockInv { s with events := [.edge e] } :=
  h.of_eq (by simp [Composed, eventIsEdge]) rfl rfl rfl

theorem BlockInv.atEdge {s : State} (h : BlockInv s) (e : Edge) : BlockInv (atEdge e s) := (h.withEdge e).takeEvent

theorem nextEvent_ne_reset {e : Edge} (clock : edgeIsClock e = true) (s : State) :
    nextEvent { s with events := [.edge e] } ≠ .edge .reset := fun reset => by
  obtain rfl : e = .reset := Event.edge.inj reset
  exact nomatch clock

/-! ### Answers (R146, R203) -/

theorem txReq_iff (s : State) : txReq s = true ↔ s.usb.tphase = .attempt := beq_iff_eq

/-- An edge brings an answer exactly when it drives `tx_done` in ATTEMPT. -/
theorem answerOf_eq_some_iff (e : Edge) (s : State) (ok : Bool) :
    answerOf e s = some ok ↔ s.usb.tphase = .attempt ∧ ∃ a, e = .usb a true ok := by
  cases e with
  | scan | reset => simp [answerOf]
  | usb a done ok' => cases done <;> cases phase : s.usb.tphase <;> simp [answerOf, phase]

/-- An answered attempt ends with the record of the held byte, and pops exactly on success (R203). -/
theorem afterEdge_answered {a ok : Bool} {s : State} (attempt : s.usb.tphase = .attempt) :
    (afterEdge (.usb a true ok) s).usb.tphase = .service ∧ (afterEdge (.usb a true ok) s).obs.pop = ok ∧
      recordAt (.usb a true ok) (afterEdge (.usb a true ok) s) =
        [(if ok then DiagCode.sent else DiagCode.sendFail, s.usb.hold)] := by
  have action : usbAction (clearDiag (atEdge (.usb a true ok) s)) =
      opAttempt (clearDiag (atEdge (.usb a true ok) s)) := by
    simp only [usbAction, clearDiag_usb, atEdge_usb, attempt]
  rw [afterEdge_of_usb rfl, action]
  cases ok <;> exact ⟨rfl, rfl, rfl⟩

/-- An attempt without an answer waits (R203). -/
theorem usbAction_unanswered {a done ok : Bool} {s : State} (answer : answerOf (.usb a done ok) s = none)
    (attempt : s.usb.tphase = .attempt) :
    usbAction (clearDiag (atEdge (.usb a done ok) s)) = clearDiag (atEdge (.usb a done ok) s) := by
  have waits : done = false := Bool.eq_false_iff.2 fun driven =>
    nomatch answer.symm.trans ((answerOf_eq_some_iff _ s ok).2 ⟨attempt, a, by rw [driven]⟩)
  subst waits
  simp only [usbAction, clearDiag_usb, atEdge_usb, attempt]
  rfl

/-- A clock edge that brings no answer leaves a pending attempt pending, and pops nothing. -/
theorem afterEdge_unanswered {e : Edge} {s : State} (clock : edgeIsClock e = true) (answer : answerOf e s = none) :
    (s.usb.tphase = .attempt → (afterEdge e s).usb.tphase = .attempt) ∧ (afterEdge e s).obs.pop = false := by
  cases e with
  | scan v d c =>
    exact ⟨fun attempt => by rw [afterEdge_scan_usb rfl, attempt], (scanAction_frame (atEdge (.scan v d c) s)).pop⟩
  | usb a done ok =>
    rw [afterEdge_of_usb rfl]
    refine ⟨fun attempt => by rw [usbAction_unanswered answer attempt]; exact attempt, ?_⟩
    rcases usbAction_fifo (clearDiag (atEdge (.usb a done ok) s)) with same | ⟨attempt, -⟩
    · exact same.pop
    · rw [usbAction_unanswered answer attempt]
      rfl
  | reset => exact nomatch clock

/-! ### The oldest byte in a good state -/

/-- What PEEK finds is the oldest unconsumed byte (R183). -/
theorem QueueInv.oldest_of_peekHead {s : State} (h : QueueInv s) {b : Byte} (head : peekHead s = some b) :
    (queueBytes s).head? = some b := by
  rcases peekHead_cases s with ⟨-, e⟩ | ⟨seen, e⟩
  · simp [e] at head
  · rw [queueBytes_eq_cons (h.tlevel_pos_of_not_empty seen), List.head?_cons, ← e, head]

/-- The oldest unconsumed byte is a legal one (R191). -/
theorem BlockInv.decodes_oldest {s : State} (h : BlockInv s) {b : Byte} (oldest : (queueBytes s).head? = some b) :
    ∃ k e, decodeEvt b = some (k, e) := by
  have nonempty : 0 < (tlevel s).toNat := Nat.pos_of_ne_zero fun none_left => by
    simp [queueBytes, none_left] at oldest
  obtain ⟨x, stored, legal⟩ := h.storage.head nonempty
  have head : readSlot s (slotOf s.usb.rbin) = x := by rw [readSlot, stored, Option.getD_some]
  rw [queueBytes_eq_cons nonempty, head, List.head?_cons] at oldest
  obtain rfl := Option.some.inj oldest
  obtain ⟨⟨k, e⟩, decoded⟩ := Option.isSome_iff_exists.1 legal
  exact ⟨k, e, decoded⟩

/-- In a good state the only records are those of answered attempts: PEEK finds no reserved byte (R205, R253). -/
theorem BlockInv.answered_of_emitsRecord {s : State} (h : BlockInv s) (record : EmitsRecord s) :
    s.usb.tphase = .attempt ∧ s.pins.txDone = true := by
  rcases record with answered | ⟨-, b, head, reserved⟩
  · exact answered
  · obtain ⟨k, e, decoded⟩ := h.decodes_oldest (h.queue.oldest_of_peekHead head)
    exact nomatch reserved.symm.trans decoded

/-- A clock edge that brings no answer emits no record. -/
theorem BlockInv.recordAt_unanswered {e : Edge} {s : State} (h : BlockInv s) (answer : answerOf e s = none) :
    recordAt e (Machine.afterEdge e s) = [] := by
  cases e with
  | scan | reset => rfl
  | usb a done ok =>
    rcases usbAction_record (Machine.clearDiag (Machine.atEdge (.usb a done ok) s)) with
      ⟨record, -⟩ | ⟨-, valid, -, -⟩
    · obtain ⟨attempt, driven⟩ := (h.atEdge _).clearDiag.answered_of_emitsRecord record
      obtain rfl : done = true := driven
      exact nomatch answer.symm.trans ((answerOf_eq_some_iff _ s ok).2 ⟨attempt, a, rfl⟩)
    · have no_record : (Machine.afterEdge (.usb a done ok) s).usb.diagValid = false := valid
      simp [recordAt, no_record]

/-! ### A step while `b` is the oldest byte -/

/-- The good state has `b` as its oldest unconsumed byte, and `p` is the packet of `b`. -/
structure Serving (b : Byte) (p : Packet) (s : State) : Prop where
  good : BlockInv s
  oldest : (queueBytes s).head? = some b
  packet : ∃ k e, decodeEvt b = some (k, e) ∧ encodePkt k e = p

theorem Serving.encodePkt_eq {b : Byte} {p : Packet} {s : State} {k : BitVec 7} {e : Bool} (h : Serving b p s)
    (decoded : decodeEvt b = some (k, e)) : encodePkt k e = p := by
  obtain ⟨k', e', decoded', rfl⟩ := h.packet
  obtain ⟨rfl, rfl⟩ := Prod.mk.inj (Option.some.inj (decoded.symm.trans decoded'))
  rfl

/-- During an attempt the held byte is `b`, and the packet on the lanes is its packet (R207). -/
theorem Serving.held {b : Byte} {p : Packet} {s : State} (h : Serving b p s) (attempt : s.usb.tphase = .attempt) :
    s.usb.hold = b ∧ txLanes s = p := by
  obtain ⟨holds, k, e, decoded, lanes⟩ := h.good.held attempt
  have same : s.usb.hold = b := by
    have oldest := h.oldest
    rw [holds] at oldest
    exact Option.some.inj oldest
  rw [same] at decoded
  exact ⟨same, lanes.trans (h.encodePkt_eq decoded)⟩

/-- The three things a clock edge can do to the oldest byte `b` and its attempt (R203). -/
inductive AttemptStep (b : Byte) (e : Edge) (s t : State) : Prop
  /-- No answer: nothing is taken, and a pending attempt stays pending. -/
  | unanswered (answer : answerOf e s = none) (takes : TakesNothing s t) (record : recordAt e t = [])
      (waits : s.usb.tphase = .attempt → t.usb.tphase = .attempt)
  /-- A failure: nothing is taken, and the attempt ends. -/
  | failed (answer : answerOf e s = some false) (takes : TakesNothing s t)
      (record : recordAt e t = [(DiagCode.sendFail, b)]) (asked : s.usb.tphase = .attempt)
      (ended : t.usb.tphase = .service)
  /-- The success: `b` is taken, and the attempt ends. -/
  | succeeded (answer : answerOf e s = some true) (takes : TakesOldest b s t)
      (record : recordAt e t = [(DiagCode.sent, b)]) (ended : t.usb.tphase = .service)

theorem BlockInv.afterEdge_takes {e : Edge} {s : State} (h : BlockInv s) (clock : edgeIsClock e = true) :
    TakesNothing s (Machine.afterEdge e s) ∨ ∃ b, TakesOldest b s (Machine.afterEdge e s) := by
  rcases (h.withEdge e).step_takes (nextEvent_ne_reset clock s) (stepEdge_eq e s) with
    ⟨pop, delivered, rbin⟩ | ⟨b, oldest, packet, pop, push, rbin, record⟩
  · exact .inl ⟨pop, delivered, rbin⟩
  · exact .inr ⟨b, oldest, packet, pop, push, rbin, record⟩

/-- What a clock edge takes shows in its pop strobe; the only byte there is to take is `b`. -/
theorem Serving.takes {b : Byte} {p : Packet} {e : Edge} {s : State} (h : Serving b p s)
    (clock : edgeIsClock e = true) :
    if (afterEdge e s).obs.pop then TakesOldest b s (afterEdge e s) else TakesNothing s (afterEdge e s) := by
  rcases h.good.afterEdge_takes clock with nothing | ⟨x, taken⟩
  · rwa [nothing.pop, if_neg nofun]
  · have oldest := h.oldest
    rw [taken.oldest] at oldest
    obtain rfl := Option.some.inj oldest
    rwa [taken.pop, if_pos rfl]

theorem Serving.attemptStep {b : Byte} {p : Packet} {e : Edge} {s : State} (h : Serving b p s)
    (clock : edgeIsClock e = true) : AttemptStep b e s (afterEdge e s) := by
  have takes := h.takes clock
  cases answer : answerOf e s with
  | none =>
    obtain ⟨waits, no_pop⟩ := afterEdge_unanswered clock answer
    rw [no_pop, if_neg nofun] at takes
    exact .unanswered answer takes (h.good.recordAt_unanswered answer) waits
  | some ok =>
    obtain ⟨attempt, a, rfl⟩ := (answerOf_eq_some_iff e s ok).1 answer
    obtain ⟨ended, pop, record⟩ := afterEdge_answered (a := a) (ok := ok) attempt
    obtain ⟨holds, -⟩ := h.held attempt
    rw [holds] at record
    rw [pop] at takes
    cases ok with
    | false => exact .failed answer takes record attempt ended
    | true => exact .succeeded answer takes record ended

/-- A clock edge that takes nothing leaves `b` the oldest byte (R91). -/
theorem Serving.afterEdge {b : Byte} {p : Packet} {e : Edge} {s : State} (h : Serving b p s)
    (clock : edgeIsClock e = true) (takes : TakesNothing s (afterEdge e s)) : Serving b p (afterEdge e s) := by
  have bytes := queueIsFirstInFirstOut _ _ (h.good.withEdge e) (nextEvent_ne_reset clock s) (stepEdge_eq e s)
  have same : queueBytes { s with events := [.edge e] } = queueBytes s := rfl
  rw [takes.pop, if_neg nofun, same] at bytes
  exact ⟨h.good.afterEdge e, by rw [bytes, List.head?_append, h.oldest, Option.some_or], h.packet⟩

/-! ### Failures and then the success -/

/-- The packet on the lanes while an attempt is pending. -/
def pendingPacket (s : State) : List Packet := if txReq s then [txLanes s] else []

/-- Along the run from `s` the attempt of `b` fails `n` times and then succeeds: what it presents (with what was already
pending), delivers, records and pops. -/
structure SentAfter (n : Nat) (b : Byte) (p : Packet) (run : List Edge) (s : State) : Prop where
  presented : pendingPacket s ++ presentations run s = List.replicate (n + 1) p
  lanes : ∀ t ∈ trace run s, txReq t = true → txLanes t = p
  delivered : deliveries run s = [p]
  records : diagRecords run s = List.replicate n (DiagCode.sendFail, b) ++ [(DiagCode.sent, b)]
  popped : ((trace run s).filter fun t => t.obs.pop).length = 1
  rbin : (lastState run s).usb.rbin = s.usb.rbin + 1#8
  ended : (lastState run s).usb.tphase = .service

theorem Serving.pendingPacket_of_attempt {b : Byte} {p : Packet} {s : State} (h : Serving b p s)
    (attempt : s.usb.tphase = .attempt) : pendingPacket s = [p] := by
  obtain ⟨-, lanes⟩ := h.held attempt
  rw [pendingPacket, if_pos ((txReq_iff s).2 attempt), lanes]

theorem txReq_eq_false {s : State} (idle : s.usb.tphase ≠ .attempt) : txReq s = false :=
  Bool.eq_false_iff.2 fun asked => idle ((txReq_iff s).1 asked)

theorem SentAfter.presented_of_idle {n : Nat} {b : Byte} {p : Packet} {run : List Edge} {s : State}
    (h : SentAfter n b p run s) (idle : s.usb.tphase ≠ .attempt) :
    presentations run s = List.replicate (n + 1) p := by
  have presented := h.presented
  rwa [pendingPacket, txReq_eq_false idle, if_neg nofun, List.nil_append] at presented

/-- An edge that takes nothing, put before the run. -/
theorem SentAfter.cons {m n : Nat} {b : Byte} {p : Packet} {e : Edge} {run : List Edge} {s : State}
    (h : SentAfter m b p run (afterEdge e s)) (serving : Serving b p (afterEdge e s))
    (takes : TakesNothing s (afterEdge e s))
    (presented : pendingPacket s ++ presentedAt s (afterEdge e s) ++ presentations run (afterEdge e s) =
      List.replicate (n + 1) p)
    (records : recordAt e (afterEdge e s) ++ List.replicate m (DiagCode.sendFail, b) =
      List.replicate n (DiagCode.sendFail, b)) : SentAfter n b p (e :: run) s where
  presented := by rw [presentations_cons, ← List.append_assoc, presented]
  lanes := by
    rw [trace_cons]
    refine List.forall_mem_cons.2 ⟨fun asked => ?_, h.lanes⟩
    obtain ⟨-, lanes⟩ := serving.held ((txReq_iff _).1 asked)
    exact lanes
  delivered := by rw [deliveries_cons, takes.delivered, h.delivered]; rfl
  records := by rw [diagRecords_cons, h.records, ← List.append_assoc, records]
  popped := by rw [trace_cons, List.filter_cons_of_neg (by simp [takes.pop]), h.popped]
  rbin := by rw [lastState_cons, h.rbin, takes.rbin]
  ended := by rw [lastState_cons, h.ended]

/-- The success alone, while the attempt is pending. -/
theorem Serving.sentAfter_success {b : Byte} {p : Packet} {s : State} (h : Serving b p s) (a : Bool)
    (attempt : s.usb.tphase = .attempt) : SentAfter 0 b p [.usb a true true] s := by
  have answer := (answerOf_eq_some_iff (.usb a true true) s true).2 ⟨attempt, a, rfl⟩
  cases h.attemptStep (e := .usb a true true) rfl with
  | unanswered none_given => exact nomatch none_given.symm.trans answer
  | failed failure => exact nomatch failure.symm.trans answer
  | succeeded _ takes record ended =>
    have idle : txReq (Machine.afterEdge (.usb a true true) s) = false := txReq_eq_false (by rw [ended]; exact nofun)
    obtain ⟨k, e, decoded, delivered⟩ := takes.packet
    refine ⟨?_, ?_, ?_, ?_, ?_, by rw [lastState_cons, lastState_nil, takes.rbin],
      by rw [lastState_cons, lastState_nil, ended]⟩
    · rw [h.pendingPacket_of_attempt attempt, presentations_cons, presentedAt, idle, Bool.and_false]
      rfl
    · rw [trace_cons, trace_nil, List.forall_mem_singleton]
      exact fun asked => nomatch idle.symm.trans asked
    · rw [deliveries_cons, delivered, h.encodePkt_eq decoded]
      rfl
    · rw [diagRecords_cons, record]
      rfl
    · simp only [trace_cons, trace_nil, List.filter_cons, takes.pop, if_true]
      rfl

/-- The presentations go over an edge without an answer: one that is pending stays so, one that starts is counted. -/
theorem pendingPacket_unanswered {b : Byte} {p : Packet} {s t : State} (h : Serving b p s) (h' : Serving b p t)
    (waits : s.usb.tphase = .attempt → t.usb.tphase = .attempt) :
    pendingPacket s ++ presentedAt s t = pendingPacket t := by
  by_cases attempt : s.usb.tphase = .attempt
  · rw [h.pendingPacket_of_attempt attempt, h'.pendingPacket_of_attempt (waits attempt), presentedAt,
      (txReq_iff s).2 attempt]
    rfl
  · rw [pendingPacket, presentedAt, txReq_eq_false attempt]
    rfl

/-- R208, by induction along the run: an edge without an answer adds nothing, a failure one presentation and one
record. -/
theorem Serving.sentAfter {b : Byte} {p : Packet} {es : List Edge} {n : Nat} {s : State} (h : Serving b p s) (a : Bool)
    (clocks : ∀ e ∈ es, edgeIsClock e = true) (failures : answers es s = List.replicate n false)
    (attempt : (lastState es s).usb.tphase = .attempt) : SentAfter n b p (es ++ [.usb a true true]) s := by
  induction es generalizing n s with
  | nil =>
    obtain rfl : n = 0 := (List.replicate_eq_nil_iff false).1 failures.symm
    exact h.sentAfter_success a attempt
  | cons e es ih =>
    obtain ⟨clock, clocks⟩ := List.forall_mem_cons.1 clocks
    rw [lastState_cons] at attempt
    rw [answers_cons] at failures
    cases h.attemptStep clock with
    | unanswered answer takes record waits =>
      have next := h.afterEdge clock takes
      rw [answer] at failures
      have rest := ih next clocks failures attempt
      exact rest.cons next takes (by rw [pendingPacket_unanswered h next waits, rest.presented]) (by rw [record]; rfl)
    | failed answer takes record asked ended =>
      have next := h.afterEdge clock takes
      have idle : txReq (Machine.afterEdge e s) = false := txReq_eq_false (by rw [ended]; exact nofun)
      rw [answer] at failures
      obtain _ | n := n
      · exact nomatch failures
      · have rest := ih next clocks (List.cons.inj failures).2 attempt
        have presented := rest.presented_of_idle (by rw [ended]; exact nofun)
        refine rest.cons next takes ?_ (by rw [record]; rfl)
        rw [h.pendingPacket_of_attempt asked, presentedAt, idle, Bool.and_false, if_neg nofun, presented]
        rfl
    | succeeded answer =>
      have success : true ∈ List.replicate n false := by
        rw [← failures, answer]
        exact List.mem_cons_self
      exact nomatch List.eq_of_mem_replicate success

/-- The oldest byte of a good state has its packet. -/
theorem BlockInv.serving {s : State} (h : BlockInv s) {b : Byte} (oldest : (queueBytes s).head? = some b) :
    ∃ k e, decodeEvt b = some (k, e) ∧ Serving b (encodePkt k e) s := by
  obtain ⟨k, e, decoded⟩ := h.decodes_oldest oldest
  exact ⟨k, e, decoded, h, oldest, k, e, decoded, rfl⟩

/-! ### Iterations answered at the first step (R206, R290) -/

/-- The Transmitter is in phase `q` and has seen the oldest byte. -/
structure ServingIn (q : TxPhase) (b : Byte) (p : Packet) (s : State) : Prop where
  serving : Serving b p s
  seen : rempty s = false
  phase : s.usb.tphase = q

/-- A `usb_clk` edge that takes nothing leaves the oldest byte seen: the pointers' views only move on. -/
theorem BlockInv.seen_afterEdge {e : Edge} {s : State} (h : BlockInv s) (usb : edgeIsUsb e = true)
    (seen : rempty s = false) (takes : TakesNothing s (Machine.afterEdge e s)) :
    rempty (Machine.afterEdge e s) = false := by
  rw [afterEdge_of_usb usb, syncW2R_usbAction]
  have rbin := takes.rbin
  rw [afterEdge_of_usb usb, syncW2R_usb] at rbin
  have queue := (h.atEdge e).clearDiag.usbAction.queue
  have frame := usbAction_frame (Machine.clearDiag (Machine.atEdge e s))
  refine queue.syncW2R_not_empty ?_
  have pointer : (Machine.usbAction (Machine.clearDiag (Machine.atEdge e s))).usb.rgray = s.usb.rgray := by
    rw [queue.rgray, h.queue.rgray, rbin]
  rw [rempty, pointer, frame.rq2]
  exact seen

/-- SERVICE goes on to PEEK when the transport has been serviced (R201). -/
theorem afterEdge_serviced {done ok : Bool} {s : State} (service : s.usb.tphase = .service) :
    (afterEdge (.usb true done ok) s).usb.tphase = .peek := by
  have action : usbAction (clearDiag (atEdge (.usb true done ok) s)) =
      opService (clearDiag (atEdge (.usb true done ok) s)) := by
    simp only [usbAction, clearDiag_usb, atEdge_usb, service]
  rw [afterEdge_of_usb rfl, action]
  rfl

/-- PEEK of a good state starts the attempt of a byte it sees (R202). -/
theorem BlockInv.afterEdge_peeked {a done ok : Bool} {s : State} (h : BlockInv s) (peek : s.usb.tphase = .peek)
    (seen : rempty s = false) : (Machine.afterEdge (.usb a done ok) s).usb.tphase = .attempt := by
  have good := (h.atEdge (.usb a done ok)).clearDiag
  have still_seen : rempty (Machine.clearDiag (Machine.atEdge (.usb a done ok) s)) = false := seen
  have action : Machine.usbAction (Machine.clearDiag (Machine.atEdge (.usb a done ok) s)) =
      opPeek (Machine.clearDiag (Machine.atEdge (.usb a done ok) s)) := by
    simp only [Machine.usbAction, clearDiag_usb, atEdge_usb, peek]
  rw [afterEdge_of_usb rfl, action]
  rcases opPeek_cases (Machine.clearDiag (Machine.atEdge (.usb a done ok) s)) with
    ⟨empty, -⟩ | ⟨b, head, reserved, -⟩ | ⟨b, k, p, -, -, e⟩
  · simp [peekHead, still_seen] at empty
  · obtain ⟨k, p, decoded⟩ := good.decodes_oldest (good.queue.oldest_of_peekHead head)
    exact nomatch reserved.symm.trans decoded
  · rw [e]
    rfl

theorem edgeIsClock_of_usb {e : Edge} (h : edgeIsUsb e = true) : edgeIsClock e = true := by
  cases e with
  | usb => rfl
  | scan | reset => exact nomatch h

/-- A `usb_clk` edge other than the success, by the phase it leads to. -/
theorem ServingIn.afterEdge {q q' : TxPhase} {b : Byte} {p : Packet} {e : Edge} {s : State} (h : ServingIn q b p s)
    (usb : edgeIsUsb e = true) (not_success : answerOf e s ≠ some true)
    (phase : (afterEdge e s).usb.tphase = q') : ServingIn q' b p (afterEdge e s) := by
  have clock := edgeIsClock_of_usb usb
  have takes : TakesNothing s (Machine.afterEdge e s) := by
    cases h.serving.attemptStep clock with
    | unanswered _ takes => exact takes
    | failed _ takes => exact takes
    | succeeded answer => exact absurd answer not_success
  exact ⟨h.serving.afterEdge clock takes, h.serving.good.seen_afterEdge usb h.seen takes, phase⟩

theorem answerOf_eq_none {e : Edge} {s : State} (idle : s.usb.tphase ≠ .attempt) : answerOf e s = none :=
  Option.eq_none_iff_forall_ne_some.2 fun ok answer => idle ((answerOf_eq_some_iff e s ok).1 answer).1

/-- From SERVICE with the oldest byte seen, two steps lead to its attempt, without an answer. -/
theorem ServingIn.attempts {b : Byte} {p : Packet} {s : State} (h : ServingIn .service b p s) :
    answers [.usb true false false, .usb false false false] s = [] ∧
      ServingIn .attempt b p (lastState [.usb true false false, .usb false false false] s) := by
  have none_in_service : answerOf (.usb true false false) s = none :=
    answerOf_eq_none (by rw [h.phase]; exact nofun)
  have peeking := h.afterEdge (e := .usb true false false) rfl (by rw [none_in_service]; exact nofun)
    (afterEdge_serviced h.phase)
  have none_in_peek : answerOf (.usb false false false) (Machine.afterEdge (.usb true false false) s) = none :=
    answerOf_eq_none (by rw [peeking.phase]; exact nofun)
  have attempting := peeking.afterEdge (e := .usb false false false) rfl (by rw [none_in_peek]; exact nofun)
    (peeking.serving.good.afterEdge_peeked peeking.phase peeking.seen)
  refine ⟨?_, by rwa [lastState_cons, lastState_cons, lastState_nil]⟩
  rw [answers_cons, none_in_service, answers_cons, none_in_peek]
  rfl

/-- An iteration whose attempt fails is one failure, and it leads back to SERVICE with the oldest byte seen. -/
theorem ServingIn.fails {b : Byte} {p : Packet} {s : State} (h : ServingIn .service b p s) :
    answers (iteration false) s = [false] ∧ ServingIn .service b p (lastState (iteration false) s) := by
  have split : iteration false = [.usb true false false, .usb false false false] ++ [.usb false true false] := rfl
  obtain ⟨no_answer, attempting⟩ := h.attempts
  rw [split, answers_append, no_answer, lastState_append]
  have failure := (answerOf_eq_some_iff (.usb false true false) _ false).2 ⟨attempting.phase, false, rfl⟩
  obtain ⟨ended, -⟩ := afterEdge_answered (a := false) (ok := false) attempting.phase
  refine ⟨by rw [answers_cons, failure]; rfl, ?_⟩
  rw [lastState_cons, lastState_nil]
  exact attempting.afterEdge rfl (by rw [failure]; exact nofun) ended

/-- `n` failed iterations are `n` failures. -/
theorem ServingIn.fails_repeatedly {b : Byte} {p : Packet} (n : Nat) {s : State} (h : ServingIn .service b p s) :
    answers (List.replicate n (iteration false)).flatten s = List.replicate n false ∧
      ServingIn .service b p (lastState (List.replicate n (iteration false)).flatten s) := by
  induction n generalizing s with
  | zero => exact ⟨rfl, h⟩
  | succ n ih =>
    obtain ⟨failure, again⟩ := h.fails
    obtain ⟨failures, after⟩ := ih again
    rw [List.replicate_succ, List.flatten_cons, answers_append, lastState_append, failure, failures]
    exact ⟨rfl, after⟩

/-- `n` failed iterations and the first two steps of another, up to its attempt. -/
def untilLastAnswer (n : Nat) : List Edge :=
  (List.replicate n (iteration false)).flatten ++ [.usb true false false, .usb false false false]

theorem untilLastAnswer_append (n : Nat) :
    (List.replicate n (iteration false)).flatten ++ iteration true = untilLastAnswer n ++ [.usb false true true] := by
  rw [untilLastAnswer, List.append_assoc]
  rfl

theorem edgeIsClock_of_mem_untilLastAnswer {n : Nat} {e : Edge} (h : e ∈ untilLastAnswer n) :
    edgeIsClock e = true := by
  rcases List.mem_append.1 h with failed | last
  · obtain ⟨es, repeated, member⟩ := List.mem_flatten.1 failed
    obtain rfl := List.eq_of_mem_replicate repeated
    exact (by decide : ∀ x ∈ iteration false, edgeIsClock x = true) e member
  · exact (by decide : ∀ x ∈ [Edge.usb true false false, .usb false false false], edgeIsClock x = true) e last

theorem ServingIn.untilLastAnswer {b : Byte} {p : Packet} (n : Nat) {s : State} (h : ServingIn .service b p s) :
    answers (untilLastAnswer n) s = List.replicate n false ∧
      (lastState (Machine.untilLastAnswer n) s).usb.tphase = .attempt := by
  obtain ⟨failures, again⟩ := h.fails_repeatedly n
  obtain ⟨no_answer, attempting⟩ := again.attempts
  rw [Machine.untilLastAnswer, answers_append, lastState_append, failures, no_answer, List.append_nil]
  exact ⟨rfl, attempting.phase⟩

end Sys2Proof.Machine

open Sys2Proof Sys2Proof.Machine

/-- Settles O60: the failures and the success are put together by `Serving.sentAfter`, with nothing pending before them;
iterations answered at the first step are such a run. -/
theorem retryWithoutDuplication : Obligations.RetryWithoutDuplication := by
  refine ⟨fun n es a s b rest good idle bytes clocks failures attempt => ?_, fun n s good service seen => ?_⟩
  · obtain ⟨k, e, decoded, serving⟩ := good.serving (b := b) (by rw [bytes, List.head?_cons])
    have sent := serving.sentAfter a clocks failures attempt
    exact ⟨k, e, decoded, sent.presented_of_idle idle, sent.lanes, sent.delivered, sent.records, sent.popped,
      sent.rbin, sent.ended⟩
  · have head : peekHead s = some (readSlot s (slotOf s.usb.rbin)) := by simp [peekHead, seen]
    obtain ⟨k, e, decoded, serving⟩ := good.serving (good.queue.oldest_of_peekHead head)
    have start : ServingIn .service _ _ s := ⟨serving, seen, service⟩
    obtain ⟨failures, attempt⟩ := start.untilLastAnswer n
    have sent := serving.sentAfter false (fun _ => edgeIsClock_of_mem_untilLastAnswer) failures attempt
    have success := (answerOf_eq_some_iff (.usb false true true) _ true).2 ⟨attempt, false, rfl⟩
    have idle : s.usb.tphase ≠ .attempt := by rw [service]; exact nofun
    rw [untilLastAnswer_append]
    refine ⟨_, k, e, head, decoded, ?_, sent.presented_of_idle idle, sent.delivered, sent.records, sent.rbin,
      sent.ended⟩
    rw [answers_append, failures, answers_cons, success]
    rfl

end

section
/-! PROOFS. The pure functions of 44_keymap_encoding.md: ENCODE_EVT is the inverse of DECODE_EVT (R220 to R222), the
bytes of a packet tell its KeyEvent (R223 to R225), and EVT_PRESS and EVT_RELEASE form a legal key's byte (R226). -/
namespace Sys2Proof.Machine

/-! ### The event byte (R222) -/

/-- A byte is its edge bit over its KeyIndex field (R111). -/
theorem encodeEvt_fields (b : Byte) : encodeEvt (b.extractLsb' 0 7) (b.getLsbD 7) = b := by
  have edge : BitVec.ofBool (b.getLsbD 7) = b.extractLsb' 7 1 := by
    ext i hi
    obtain rfl : i = 0 := by omega
    simp
  rw [encodeEvt, edge]
  exact BitVec.extractLsb'_append_extractLsb'

/-- DECODE_EVT reads the fields ENCODE_EVT laid out (R222). -/
theorem encodeEvt_of_decodeEvt {b : Byte} {k : BitVec 7} {e : Bool} (h : decodeEvt b = some (k, e)) :
    encodeEvt k e = b := by
  obtain ⟨-, rfl, rfl⟩ := (decodeEvt_eq_some_iff b k e).1 h
  exact encodeEvt_fields b

/-! ### What a packet tells (R225) -/

/-- `KEYMAP` is injective (R19). -/
theorem keymapLookup_injective : Function.Injective keymapLookup := Config.noteTable.injective

/-- P0 holds cable 0 and the code index number, 9 for on and 8 for off (R16, R20). -/
theorem encodePkt_p0 (k : BitVec 7) (e : Bool) : (encodePkt k e).p0 = if e then 0x09#8 else 0x08#8 := by
  cases e <;> rfl

/-- Bit 0 of P0 tells the edge. -/
theorem encodePkt_edge (k : BitVec 7) (e : Bool) : (encodePkt k e).p0.getLsbD 0 = e := by
  rw [encodePkt_p0]
  cases e <;> rfl

/-- P2 is the note, whichever the edge (R114, R115). -/
theorem encodePkt_p2 (k : BitVec 7) (e : Bool) : (encodePkt k e).p2 = 0#1 ++ keymapLookup k := by
  cases e <;> rfl

theorem edge_eq_of_encodePkt_eq {k₁ k₂ : BitVec 7} {e₁ e₂ : Bool} (h : encodePkt k₁ e₁ = encodePkt k₂ e₂) :
    e₁ = e₂ := by
  rw [← encodePkt_edge k₁ e₁, h, encodePkt_edge]

theorem key_eq_of_encodePkt_eq {k₁ k₂ : BitVec 7} {e₁ e₂ : Bool} (h : encodePkt k₁ e₁ = encodePkt k₂ e₂) :
    k₁ = k₂ := by
  have third := congrArg Packet.p2 h
  rw [encodePkt_p2, encodePkt_p2] at third
  exact keymapLookup_injective (append_inj.1 third).2

/-! ### EVT_PRESS and EVT_RELEASE (R220, R226) -/

theorem legalKey_iff (k : BitVec 7) : legalKey k = true ↔ k.toNat ≤ 48 := by
  rw [legalKey, decide_eq_true_eq, Nat.lt_succ_iff]

theorem exec_evtPress (k : BitVec 7) (s : State) :
    exec (.evtPress k) s = if k.toNat ≤ 48 then .next (s.withObs { s.obs with evt := some (1#1 ++ k) })
      else .refused .reservedKeyIndex :=
  if_congr (legalKey_iff k) rfl rfl

theorem exec_evtRelease (k : BitVec 7) (s : State) :
    exec (.evtRelease k) s = if k.toNat ≤ 48 then .next (s.withObs { s.obs with evt := some (0#1 ++ k) })
      else .refused .reservedKeyIndex :=
  if_congr (legalKey_iff k) rfl rfl

end Sys2Proof.Machine

open Sys2Proof Sys2Proof.Machine

/-- Settles O5: each function undoes the other on the two fields of the byte. -/
theorem eventByteRoundTrip : Obligations.EventByteRoundTrip :=
  ⟨fun _ e legal => decodeEvt_encodeEvt (Nat.lt_succ_of_le legal) e, fun _ _ _ => encodeEvt_of_decodeEvt⟩

/-- Settles O11: P2 tells the key, bit 0 of P0 the edge. -/
theorem distinctEventsHaveDistinctPackets : Obligations.DistinctEventsHaveDistinctPackets :=
  fun _ _ _ _ same => ⟨key_eq_of_encodePkt_eq same, edge_eq_of_encodePkt_eq same⟩

/-- Settles O27: both operations answer by the one guard, the range of the KeyIndex. -/
theorem eventBytesAreFormed : Obligations.EventBytesAreFormed := by
  intro k s
  rw [exec_evtPress, exec_evtRelease]
  refine ⟨fun legal => ⟨if_pos legal, if_pos legal⟩, fun reserved => ?_⟩
  have not_legal : ¬ k.toNat ≤ 48 := by omega
  exact ⟨if_neg not_legal, if_neg not_legal⟩

end

section
/-! PROOFS. The fatals (60_exceptions.md): halt entry (R244), what a clock edge leaves of a halted agent (R245, R247,
R260), and why a run from reset raises no DECODE (R253): the good-state invariant holds of every state it reaches. -/
namespace Sys2Proof.Machine

/-! ### The states of a run (R92) -/

/-- A run of one step more is a step that answers, and the run from there. -/
theorem run_succ_eq_next_iff {M : Host.Core} {n : Nat} {s t : M.State} :
    M.run (n + 1) s = .next t ↔ ∃ u, M.step s = .next u ∧ M.run n u = .next t := by
  simp only [Host.Core.run]
  cases M.step s with
  | next u => simp
  | fault | refused => simp

/-- What every step keeps holds at the end of a run that starts with it. -/
theorem run_keeps {M : Host.Core} {P : M.State → Prop} (keeps : ∀ s t, P s → M.step s = .next t → P t) {n : Nat}
    {s t : M.State} (h : P s) (run : M.run n s = .next t) : P t := by
  induction n generalizing s with
  | zero => exact Host.Outcome.next.inj run ▸ h
  | succ n ih =>
    obtain ⟨u, first, rest⟩ := run_succ_eq_next_iff.1 run
    exact ih (keeps s u h first) rest

/-- Every run of the composed block from reset starts in a good state (R180, R271). -/
theorem blockInv_reset_withEdges (es : List Edge) : BlockInv { State.reset with events := es.map Event.edge } :=
  blockInv_reset.of_eq (List.forall_mem_map.2 fun _ _ => rfl) rfl rfl rfl

end Sys2Proof.Machine

open Sys2Proof Sys2Proof.Machine

/-- Settles O33: the writes of each `raise`, as the rules about the state's operations say them. -/
theorem haltEntryWrites : Obligations.HaltEntryWrites :=
  fun s => ⟨raiseFatal_overflow s, raiseFatal_init s, raiseFatal_decode s⟩

/-- Settles O42: an edge of its own clock only shifts a halted agent's synchroniser, and an edge of the other clock
writes none of its registers. -/
theorem noClockEdgeLeavesAHalt : Obligations.NoClockEdgeLeavesAHalt := by
  intro s t e clock hev hs
  obtain ⟨scan_edge, usb_edge, -⟩ := domainsWriteOnlyTheirOwn s t hs
  cases e with
  | scan v d c =>
    refine ⟨fun halted => ?_, fun halted => ?_⟩
    · obtain ⟨shifted, -⟩ := haltedScannerOnlyShifts.2 s t v d c hev halted hs
      rw [shifted]
      exact ⟨halted, rfl, rfl, rfl, rfl⟩
    · rw [scan_edge v d c hev]
      exact ⟨halted, rfl, rfl, rfl⟩
  | usb a b c =>
    refine ⟨fun halted => ?_, fun halted => ?_⟩
    · obtain ⟨same, -⟩ := usb_edge a b c hev
      rw [same]
      exact ⟨halted, rfl, rfl, rfl, rfl⟩
    · obtain ⟨shifted, -⟩ := haltedTransmitterOnlyShifts.2 s t a b c hev halted hs
      rw [shifted]
      exact ⟨halted, rfl, rfl, rfl⟩
  | reset => exact nomatch clock

/-- Settles O51: a run from reset ends in a good state, in which the Transmitter is running. -/
theorem decodeFatalIsUnreachable : Obligations.DecodeFatalIsUnreachable := by
  intro es n s run
  have good : BlockInv s :=
    run_keeps (M := core) (P := BlockInv) everyStepKeepsAGoodState (blockInv_reset_withEdges es) run
  exact good.tx.running

end

section
/-! PROOFS. Reset (70_reset_and_hazards.md R271 to R273): the pointers all stand at 0, so both sides see an empty queue,
and the status words and requests follow. -/
namespace Sys2Proof.Machine

/-! ### The levels, the flags and the status words at reset -/

theorem wlevel_reset : wlevel State.reset = 0#8 :=
  calc wlevel State.reset
    _ = 0#8 - gray2bin 0#8 := rfl
    _ = 0#8 := by simp

theorem rlevel_reset : rlevel State.reset = 0#8 :=
  calc rlevel State.reset
    _ = gray2bin 0#8 - 0#8 := rfl
    _ = 0#8 := by simp

theorem wfull_reset : wfull State.reset = false := by
  obtain ⟨-, -, not_full⟩ := fullFlagBinaryAndGray
  exact not_full

theorem rempty_reset : rempty State.reset = true :=
  (rempty_iff State.reset).2 rfl

/-- `SCAN_STATUS` at reset is 0: nothing lost or queued, no fatal, and the Handoff not yet done (R68). -/
theorem scanStatus_reset : scanStatus State.reset = 0x000000#24 := by
  rw [scanStatus, wlevel_reset, wfull_reset]
  rfl

/-- The one bit of `TX_STATUS` at reset is `REMPTY` (R69). -/
theorem txStatus_reset : txStatus State.reset = 0x000004#24 := by
  rw [txStatus, rlevel_reset, rempty_reset]
  rfl

/-- No slot has a value at reset (R55, R271). -/
theorem read_mem_reset (i : Nat) : State.reset.mem.read i = none :=
  Memory.read_nil i

/-- The Transmitter asks for a service at once (R73, R276). -/
theorem svcReq_reset : svcReq State.reset = true :=
  beq_iff_eq.2 rfl

/-- No packet is presented before the first service (R73, R276). -/
theorem txReq_reset : txReq State.reset = false :=
  txReq_eq_false nofun

end Sys2Proof.Machine

open Sys2Proof.Machine

/-- Settles O37: the registers of each domain as they are reset, the storage without a slot, and what the levels and
flags of an empty queue make of the status words. -/
theorem resetValues : Obligations.ResetValues :=
  ⟨rfl, rfl, rfl, rfl, rfl, rfl, rfl, rfl, rfl, rfl, rfl, rfl, rfl, read_mem_reset,
    rfl, rfl, rfl, rfl, rfl, rfl, rfl, rfl, rfl, rfl, rfl, rfl, rfl, rfl, rfl,
    wfull_reset, rempty_reset, wlevel_reset, rlevel_reset, scanStatus_reset, txStatus_reset, svcReq_reset, txReq_reset⟩

/-- Settles O44: equal pointers, an empty storage, a service that holds nothing, every row line idle. -/
theorem goodStateAtReset : Obligations.GoodStateAtReset :=
  blockInv_reset

end
